-- ==== Sys2Proof/Word.lean ====
section
/-! DEFINITION. The word types of MONIP-FR: bytes, the 16-bit command word, the 24-bit raw field, the 32-bit field
register and the binary32 pattern (spec/00_scope.md R7, R8). -/

namespace Sys2Proof

/-- `BYTE_W` = 8 bits (R7); a byte is an unsigned integer 0..255 (R8). -/
abbrev Byte := BitVec 8

/-- The host command word, `op` in bits 15:8 and `arg` in bits 7:0 (R69). -/
abbrev Half := BitVec 16

/-- A 24-bit field before sign extension (R67). -/
abbrev Raw := BitVec 24

/-- A 32-bit field register, read as two's complement (R22). -/
abbrev Word := BitVec 32

/-- An IEEE-754 binary32 bit pattern (R23). -/
abbrev F32 := BitVec 32

end Sys2Proof
end

