-- ==== Sys2Proof/Config.lean ====
section
/-! DEFINITION. What is fixed for one machine (spec/00_scope.md R7): the constants, the two parameters the spec leaves
OPEN (which Transport, which reading of `scale_fn`), and the free values, which have no body. -/

namespace Sys2Proof

/-- The two Transports of 92_eei_decisions.md D15. -/
inductive TransportModel where
  /-- R91: the answers come from outside, any of the three, with any bytes, or never. -/
  | oracle
  /-- R100: deterministic and total over a finite byte list, answering at once. -/
  | reference
deriving DecidableEq, Repr

/-- The readings of the OPEN parameter `scale_fn` (R179). -/
inductive ScaleReading where
  /-- The default: the exact quotient, rounded once to binary32. -/
  | exact
  /-- Reading (ii): divisor and quotient rounded to binary64, then the quotient to binary32. -/
  | binary64
  /-- Reading (iii): divisor rounded to binary32, division in binary32. -/
  | binary32
  /-- Any other function of k and v: nothing is known of it. -/
  | unknown
deriving DecidableEq, Repr

/-- The OPEN parameters of R7 that a rule of the block reads. -/
structure Config where
  transport : TransportModel
  scale     : ScaleReading
deriving DecidableEq, Repr

namespace Config

/-- `LEN_MIN` (R7, D6). -/
def lenMin : Nat := 3

/-- `BUF_DEPTH` = `BODY_MAX` = 253 (R7). -/
def bufDepth : Nat := 253

/-- `PAYLOAD_LEN` = 27 (R7). -/
def payloadLen : Byte := 27

/-- `TELEMETRY_HEADER` (R7). -/
def telemetryHeader : Byte := 0xAE

/-- `TELEMETRY_LEN` (R7). -/
def telemetryLen : Byte := 0x1E

/-- The opcode of `START` (R69). -/
def startOp : Byte := 0x01

/-- FREE VALUE (R231, U15): how many bytes an abandoned read takes, before its bound is applied; the argument is the
counter `tick`. Assumption log 8. -/
opaque abandonedTakes : Nat → Nat

/-- FREE VALUE (R92, U16): how many of the bytes that did arrive a short read takes, before its bound is applied; the
argument is the counter `tick`. Assumption log 9. -/
opaque shortReadTakes : Nat → Nat

/-- FREE VALUE (R179): a `scale_fn` of which nothing is known, a function of the field index k and the integer v alone.
Assumption log 7. -/
opaque scaleUnknown : Nat → Word → F32

end Config

end Sys2Proof
end

