-- ==== Sys2Proof/Syntax.lean ====
section
/-! DEFINITION. The operations of MONIP-FR: one constructor for each of the 33 rows of spec/opcode_table.json
(spec/30_encoding.md R74), with the operands the table gives each. -/

namespace Sys2Proof

/-- The Transport's answer to one read request (R92). -/
inductive Answer where
  /-- All the bytes asked for. -/
  | ok (bs : List Byte)
  /-- Fewer bytes than asked arrived before the timeout. -/
  | shortRead
  /-- There is no open device (D7). -/
  | unavailable
deriving DecidableEq, Repr

/-- `|s| = n` for an `Ok` answer to a read of `n` bytes (R92); a failed answer fits every request. -/
def Answer.fits (n : Nat) : Answer → Bool
  | .ok bs => bs.length == n
  | .shortRead => true
  | .unavailable => true

/-- The operations (R74). An operand that the environment supplies (an answer, whether the device opens, how many bytes
it takes) is an argument of the constructor. -/
inductive Instr where
  /-- `START` with the expected header (R111). -/
  | start (e : Byte)
  /-- Stage 1 with the Transport's answer (R112). -/
  | awaitHeader (a : Answer)
  /-- Stage 2 with the Transport's answer (R113). -/
  | awaitLength (a : Answer)
  /-- Stage 3 with the Transport's answer (R114). -/
  | awaitPayload (a : Answer)
  /-- Stage 4 (R115). -/
  | validate
  /-- Stage 5 (R116). -/
  | headerCheck
  /-- Stage 6 (R117). -/
  | success
  /-- The unpacker (R141). -/
  | unpack
  /-- The sign-extension primitive (R142). -/
  | sext24 (raw : Raw)
  /-- Reserved1 (R143). -/
  | extract0
  /-- Reserved2 (R144). -/
  | extract1
  /-- Vrms (R145). -/
  | extract2
  /-- Irms (R146). -/
  | extract3
  /-- Watts (R147). -/
  | extract4
  /-- Pavg (R148). -/
  | extract5
  /-- PF (R149). -/
  | extract6
  /-- Freq (R150). -/
  | extract7
  /-- KwH (R151). -/
  | extract8
  /-- Vrms by 1000 (R172). -/
  | scale2
  /-- Irms by 128700.1287 (R173). -/
  | scale3
  /-- Watts by 200 (R174). -/
  | scale4
  /-- Pavg by 200 (R175). -/
  | scale5
  /-- PF by 1000 (R176). -/
  | scale6
  /-- Freq by 1000 (R177). -/
  | scale7
  /-- KwH by 1000 (R178). -/
  | scale8
  /-- `T_OPEN path` (R93); `opens` says whether the device at that path can be opened and configured. -/
  | tOpen (path : List Byte) (opens : Bool)
  /-- `T_READ n` (R92). -/
  | tRead (n : Nat)
  /-- `T_WRITE bytes` (R94); `taken` says how many of them the device has transmitted when the call returns. -/
  | tWrite (bs : List Byte) (taken : Nat)
  /-- `T_RESET` (R95). -/
  | tReset
  /-- `T_CLOSE` (R96). -/
  | tClose
  /-- The reset event (R230). -/
  | reset
  /-- A frame on the wire: header, length byte, data payload, checksum byte (R61). -/
  | frame (h l : Byte) (data : List Byte) (c : Byte)
  /-- The telemetry report: header 0xAE, length 0x1E, 27 data bytes, checksum byte (R61, R66). -/
  | telemetryReport (data : List Byte) (c : Byte)
deriving DecidableEq, Repr

/-- `EXTRACT k` for the field index k = 0..8. -/
def Instr.extract (k : Fin 9) : Instr :=
  match k with
  | 0 => .extract0 | 1 => .extract1 | 2 => .extract2 | 3 => .extract3 | 4 => .extract4
  | 5 => .extract5 | 6 => .extract6 | 7 => .extract7 | 8 => .extract8

/-- `SCALE k` for the exposed field k = j + 2, j = 0..6. -/
def Instr.scale (j : Fin 7) : Instr :=
  match j with
  | 0 => .scale2 | 1 => .scale3 | 2 => .scale4 | 3 => .scale5 | 4 => .scale6 | 5 => .scale7 | 6 => .scale8

end Sys2Proof
end

