-- ==== Sys2Proof/WellFormed.lean ====
section
/-! DEFINITION. Which operations are well formed: operand ranges of spec/opcode_table.json. -/

namespace Sys2Proof

/-- The length byte of a telemetry report with its header: the words that `TELEMETRY_REPORT` names, so that `FRAME`
stands for the other frames only (R74: the two patterns overlap; assumption log 17). -/
def isTelemetryHead (h l : Byte) : Bool :=
  h == Config.telemetryHeader && l == Config.telemetryLen

/-- Operand ranges: answers of the size asked for (R92), a read of 1 to 253 bytes (R92), no more bytes transmitted than
given (R94), a length byte of at least 3 that counts the frame (R61, R63), 27 telemetry bytes (R66). -/
def Instr.wf : Instr → Bool
  | .start _ => true
  | .awaitHeader a => a.fits 1
  | .awaitLength a => a.fits 1
  | .awaitPayload (.ok bs) => decide (1 ≤ bs.length ∧ bs.length ≤ Config.bufDepth)
  | .awaitPayload .shortRead => true
  | .awaitPayload .unavailable => true
  | .validate => true
  | .headerCheck => true
  | .success => true
  | .unpack => true
  | .sext24 _ => true
  | .extract0 => true
  | .extract1 => true
  | .extract2 => true
  | .extract3 => true
  | .extract4 => true
  | .extract5 => true
  | .extract6 => true
  | .extract7 => true
  | .extract8 => true
  | .scale2 => true
  | .scale3 => true
  | .scale4 => true
  | .scale5 => true
  | .scale6 => true
  | .scale7 => true
  | .scale8 => true
  | .tOpen _ _ => true
  | .tRead n => decide (1 ≤ n ∧ n ≤ Config.bufDepth)
  | .tWrite bs taken => decide (taken ≤ bs.length)
  | .tReset => true
  | .tClose => true
  | .reset => true
  | .frame h l data _ => decide (Config.lenMin ≤ l.toNat ∧ data.length + 3 = l.toNat) && !isTelemetryHead h l
  | .telemetryReport data _ => data.length == 27

end Sys2Proof
end

