-- ==== Sys2Proof/Decode.lean ====
section
/-! DEFINITION. Decoding, total, rejecting by name, and the encoder written from the same rules. Two channels carry
encodings: the command channel (16-bit words, spec/30_encoding.md R69) and the wire (frames, R61). Every other operation
has no bit-level encoding (R74). -/

namespace Sys2Proof

/-- Why bits are no operation. -/
inductive DecodeError where
  /-- A command word whose `op` is not 0x01 (R69). -/
  | notACommand (op : Byte)
  /-- Fewer than the two bytes a decoder needs to know a frame's length (R65). -/
  | noHead
  /-- A length byte 0, 1 or 2, which describes no frame (R63, R71). -/
  | lengthBelowThree (l : Byte)
  /-- Fewer bytes than the length byte says. -/
  | truncated (want got : Nat)
  /-- Bytes after the frame, where one frame was asked for. -/
  | trailing (n : Nat)
deriving DecidableEq, Repr

/-- The command word `{op, arg}` (R69). -/
def decodeCommand (w : Half) : Except DecodeError Instr :=
  let op := w.extractLsb' 8 8
  if op = Config.startOp then .ok (.start (w.extractLsb' 0 8)) else .error (.notACommand op)

/-- The operation for a frame of header `h`, length byte `l`, payload `data` and checksum byte `c`: with the head AE 1E it
is the telemetry report (R74). -/
def frameOf (h l : Byte) (data : List Byte) (c : Byte) : Instr :=
  if isTelemetryHead h l then .telemetryReport data c else .frame h l data c

/-- One frame from the front of a byte list, with the bytes after it (R61, R65): the second byte alone gives the length,
and the last of the `l - 2` body bytes is the checksum. -/
def decodeFrame : List Byte → Except DecodeError (Instr × List Byte)
  | h :: l :: rest =>
    if l.toNat < Config.lenMin then .error (.lengthBelowThree l)
    else
      match rest.drop (l.toNat - 3) with
      | c :: after => .ok (frameOf h l (rest.take (l.toNat - 3)) c, after)
      | [] => .error (.truncated l.toNat (rest.length + 2))
  | _ => .error .noHead

/-- The bits of an operation on the channel that carries them. -/
inductive Encoding where
  | command (w : Half)
  | wire (bs : List Byte)
deriving DecidableEq, Repr

/-- Decoding on either channel; on the wire, exactly one frame. -/
def decode : Encoding → Except DecodeError Instr
  | .command w => decodeCommand w
  | .wire bs =>
    match decodeFrame bs with
    | .ok (i, []) => .ok i
    | .ok (_, _ :: rest) => .error (.trailing (rest.length + 1))
    | .error e => .error e

/-- The command word of `START e` (R69): 0x01 above the expected header. -/
def startWord (e : Byte) : Half := Config.startOp ++ e

/-- The bytes of a frame in wire order (R61). -/
def frameBytes (h l : Byte) (data : List Byte) (c : Byte) : List Byte := h :: l :: (data ++ [c])

/-- The encoder: `none` for the operations to which the spec gives no bits (R74). -/
def encode : Instr → Option Encoding
  | .start e => some (.command (startWord e))
  | .frame h l data c => some (.wire (frameBytes h l data c))
  | .telemetryReport data c => some (.wire (frameBytes Config.telemetryHeader Config.telemetryLen data c))
  | .awaitHeader _ | .awaitLength _ | .awaitPayload _ | .validate | .headerCheck | .success => none
  | .unpack | .sext24 _ => none
  | .extract0 | .extract1 | .extract2 | .extract3 | .extract4 | .extract5 | .extract6 | .extract7 | .extract8 => none
  | .scale2 | .scale3 | .scale4 | .scale5 | .scale6 | .scale7 | .scale8 => none
  | .tOpen _ _ | .tRead _ | .tWrite _ _ | .tReset | .tClose | .reset => none

/-- The first `k` 16-bit words of the number `w`, least significant word first, each as its two bytes in wire order: the
prefix word is header<<8 | length (R74), so the high byte of a word comes first. -/
def tableWords : Nat → Nat → List Byte
  | 0, _ => []
  | k + 1, w => BitVec.ofNat 8 (w / 256) :: BitVec.ofNat 8 w :: tableWords k (w / 65536)

/-- The wire bytes of an operation whose first `nbits` bits are `w` and whose other bits are zero: 256 bytes, enough
for the longest frame (255 bytes, R7). -/
def tableBytes (nbits w : Nat) : List Byte := tableWords 128 (w % 2 ^ nbits)

/-- The operation that bits numbered as spec/opcode_table.json numbers them stand for. The table's 16-bit words are a
command word (format CMD16) or a frame's prefix word (format WIRE_FRAME): a word that is a command is read as one, every
other as a frame followed by zero bytes (assumption log 16). -/
def decodeTableWord (nbits w : Nat) : Option Instr :=
  match if nbits ≤ 16 then decodeCommand (BitVec.ofNat 16 (w % 2 ^ nbits)) else .error (.notACommand 0) with
  | .ok i => some i
  | .error _ =>
    match decodeFrame (tableBytes nbits w) with
    | .ok (i, _) => some i
    | .error _ => none

end Sys2Proof
end

