-- ==== Sys2Proof/Machine/State.lean ====
section
/-! DEFINITION. The state of MONIP-FR and its environment (spec/10_state.md R10 to R29, spec/40_transport.md R100), the
faults and refusals, and the state after reset. -/

namespace Sys2Proof.Machine

/-- The stage register `st` (R13). -/
inductive Stage where
  | idle | awaitHeader | awaitLength | awaitPayload | validate | headerCheck | success | done
deriving DecidableEq, Repr

/-- The five typed failures (R191). -/
inductive Failure where
  | noDevice | timeout | checksumMismatch | unexpectedHeader | malformedPayload
deriving DecidableEq, Repr

/-- The result register `status` (R20). -/
inductive Status where
  | none | ok | failed (k : Failure)
deriving DecidableEq, Repr

/-- The names of what can hold no value (R12), for the fault that a read of it is. -/
inductive Reg where
  | expHdr | hdr | len | cnt | sum | outLen
  | buf (offset : Nat)
  | fld (k : Nat)
  | val (k : Nat)
  | payload
deriving DecidableEq, Repr

/-- What stops the machine. Both are SAFE: the model stops where it gives no value. -/
inductive Fault where
  /-- A read of a register, a buffer byte or an output that holds no value (R12, U13); raised by every operation that
  reads one and by the caller's output reads. Safe: nothing can be proved of the value. -/
  | noValue (r : Reg)
  /-- A buffer access at an offset above 252, which does not exist (R40); raised by the buffer operations. Safe. -/
  | outsideBuffer (offset : Nat)
deriving DecidableEq, Repr

/-- What the model refuses, each by name. All are SAFE: the run is outside the spec. -/
inductive Refusal where
  /-- An operation whose meaning is not written; raised by no arm of a finished model. Safe. -/
  | notModelled (mnemonic : String)
  /-- A stage operation in another stage, where R119 has no transition; raised by the six stage operations. Safe. -/
  | notSelected (st : Stage)
  /-- An `Ok` answer that has not the length asked for (R92, U17); raised by the waiting stages and by an outside
  answer. Safe. -/
  | answerLength
  /-- An answer where no request is outstanding, or a second answer to one request (R25); raised by an outside answer.
  Safe. -/
  | answerWithoutRequest
  /-- An outside answer while the reference Transport answers (R100); raised by an outside answer. Safe. -/
  | answerUnderReference
  /-- A read of the handle by another reader during an invocation (R240, U5); raised by `T_READ`. Safe. -/
  | secondReader
  /-- A read request for 0 bytes (R92, U18); raised by `T_READ`. Safe. -/
  | zeroRead
  /-- A command word whose `op` is no command (R69, 93_implementation_defined.md part 3); raised when a step takes the
  word. Safe. -/
  | notACommand (op : Byte)
deriving DecidableEq, Repr

/-- The line discipline's minimum-byte-count setting (R27 (b), R92, R95). -/
inductive MinCount where
  | nonBlocking
  | count (n : Nat)
deriving DecidableEq, Repr

/-- What a Transport call returned to the caller (R92 to R96). -/
inductive TReturn where
  | noCall
  | handle
  | deviceUnavailable
  | read (a : Answer)
  | wrote (n : Nat)
  | shortWrite
  | finished
deriving DecidableEq, Repr

/-- One act of an agent (R10), in the order in which the agents act. `block` lets the block, or the reference Transport
that serves it, take its own next step; every other act comes from outside (R25). Assumption log 3. -/
inductive Event where
  | block
  /-- A word on channel `cmd` (R69). -/
  | cmd (w : Half)
  /-- Channel `rst` (R230). -/
  | rst
  /-- The serial device delivers bytes (R40). -/
  | wire (bs : List Byte)
  /-- The oracle Transport answers the outstanding request (R91). -/
  | answer (a : Answer)
  /-- The Transport answers a request that `RESET` abandoned (R230). -/
  | lateAnswer (a : Answer)
  | tOpen (path : List Byte) (opens : Bool)
  /-- The caller itself reads (R92). -/
  | tRead (n : Nat)
  | tWrite (bs : List Byte) (taken : Nat)
  | tReset
  | tClose
deriving DecidableEq, Repr

/-- The body buffer: the bytes that hold a value, by offset, offsets strictly rising; an offset not listed holds no value
(R12, R24). -/
abbrev Memory := List Host.Cell

/-- The canonical form of the buffer: strictly rising offsets, each below 253 (R40). -/
def Memory.wf : Memory → Bool
  | [] => true
  | [(a, _)] => decide (a < Config.bufDepth)
  | (a, _) :: (b, y) :: rest => decide (a < b) && Memory.wf ((b, y) :: rest)

/-- The whole state. An Option register is the spec's own ⊥ (R12), not a missing reset value. -/
structure State where
  /-- The OPEN parameters, fixed (R7). -/
  cfg : Config
  /-- `st` (R13). -/
  st : Stage
  /-- `status` (R20). -/
  status : Status
  /-- `exp_hdr` (R14). -/
  expHdr : Option Byte
  /-- `hdr` (R15). -/
  hdr : Option Byte
  /-- `len` (R16). -/
  len : Option Byte
  /-- `cnt` (R17). -/
  cnt : Option Byte
  /-- `sum` (R18). -/
  sum : Option Byte
  /-- `out_len` (R19). -/
  outLen : Option Byte
  /-- `buf[0..252]` (R24). -/
  buf : Memory
  /-- `fld[0..8]` (R22). -/
  fld : Vector (Option Word) 9
  /-- `val[2..8]` (R23): entry j is `val[j+2]`. -/
  val : Vector (Option F32) 7
  /-- The outstanding request of channel `rd_req` (R25). -/
  req : Option Nat
  /-- The answer on channel `rd_rsp` (R25). -/
  rsp : Option Answer
  /-- The open handle, or the null handle (R26). -/
  handle : Option (List Byte)
  /-- The minimum-byte-count setting (R27 (b)). -/
  vmin : MinCount
  /-- The bytes delivered and not yet consumed (R27 (a)). -/
  wire : List Byte
  /-- How many bytes still to arrive an abandoned read takes (R231). -/
  debt : Nat
  /-- How many abandoned requests have had no answer (R230). -/
  abandoned : Nat
  /-- The bytes `T_WRITE` has transmitted (R94). -/
  sent : List Byte
  /-- What the caller's last Transport call returned. -/
  tret : TReturn
  /-- The MODEL's own: what `SEXT24` last returned as an operation of its own (R142). -/
  sextOut : Word
  /-- The MODEL's own: how many free values have been used. -/
  tick : Nat
  /-- The MODEL's own: the agents' acts still to come. -/
  schedule : List Event
deriving DecidableEq, Repr

/-- The state right after reset: R29 for the block; the environment and the model's own fields at the values the
assumption log names (log 5, 6, 18, 28). -/
def State.reset : State where
  cfg := { transport := .oracle, scale := .exact }
  st := .idle
  status := .none
  expHdr := none
  hdr := none
  len := none
  cnt := none
  sum := none
  outLen := none
  buf := []
  fld := Vector.replicate 9 none
  val := Vector.replicate 7 none
  req := none
  rsp := none
  handle := none
  vmin := .nonBlocking
  wire := []
  debt := 0
  abandoned := 0
  sent := []
  tret := .noCall
  sextOut := 0
  tick := 0
  schedule := []

end Sys2Proof.Machine
end

