-- ==== Sys2Proof/Machine/Ops.lean ====
section
/-! DEFINITION. The named operations that the meanings share: byte sums (spec/00_scope.md R8), the body buffer (R40),
register reads (R12), requests and answers (R25), the end of an invocation by a failure (R196) and its return, the next
`START` (R111), and the Transport's own effects (R92, R231). -/

namespace Sys2Proof.Machine

/-- The result of one operation. -/
abbrev Result := Host.Outcome State Fault Refusal

/-- Go on with the value read, or stop with the fault of the read. -/
def orFault {α : Type} (r : Except Fault α) (k : α → Result) : Result :=
  match r with
  | .ok a => k a
  | .error f => .fault f

/-! ### Byte sums (R8, R122) -/

/-- `sum8`: the sum of the bytes modulo 256, 0 for the empty string. -/
def sum8 (bs : List Byte) : Byte := bs.foldr (· + ·) 0

/-- `neg8(x) = (~x) + 1` modulo 256. -/
def neg8 (x : Byte) : Byte := ~~~x + 1

/-! ### Status codes (R20, R68) -/

/-- The 3-bit code of a status. -/
def Status.code : Status → BitVec 3
  | .none => 0
  | .ok => 1
  | .failed .noDevice => 2
  | .failed .timeout => 3
  | .failed .checksumMismatch => 4
  | .failed .unexpectedHeader => 5
  | .failed .malformedPayload => 6

/-- The status a code stands for; code 7 is reserved. -/
def Status.ofCode (c : BitVec 3) : Option Status :=
  if c = 0 then some .none
  else if c = 1 then some .ok
  else if c = 2 then some (.failed .noDevice)
  else if c = 3 then some (.failed .timeout)
  else if c = 4 then some (.failed .checksumMismatch)
  else if c = 5 then some (.failed .unexpectedHeader)
  else if c = 6 then some (.failed .malformedPayload)
  else Option.none

/-! ### The body buffer (R24, R40, R47) -/

/-- The byte at an offset, if it holds a value. -/
def Memory.lookup : Memory → Nat → Option Byte
  | [], _ => none
  | (a, x) :: rest, i => if i = a then some x else Memory.lookup rest i

/-- `buf[i] <- x` at the place that keeps the offsets rising. -/
def Memory.set : Memory → Nat → Byte → Memory
  | [], i, x => [(i, x)]
  | (a, y) :: rest, i, x =>
    if i < a then (i, x) :: (a, y) :: rest
    else if i = a then (i, x) :: rest
    else (a, y) :: Memory.set rest i x

/-- Bytes at consecutive offsets from `i`. -/
def Memory.setBytes : Memory → Nat → List Byte → Memory
  | m, _, [] => m
  | m, i, x :: xs => Memory.setBytes (Memory.set m i x) (i + 1) xs

/-- `MemWrite(i, n, s)` with n = |s| (R8): the whole string lands in one step, inside the buffer or not at all. -/
def Memory.write (m : Memory) (i : Nat) (s : List Byte) : Except Fault Memory :=
  if i + s.length ≤ Config.bufDepth then .ok (Memory.setBytes m i s)
  else .error (.outsideBuffer (max i Config.bufDepth))

/-- A read of one buffer byte. -/
def Memory.readByte (m : Memory) (i : Nat) : Except Fault Byte :=
  if i < Config.bufDepth then
    match Memory.lookup m i with
    | some x => .ok x
    | none => .error (.noValue (.buf i))
  else .error (.outsideBuffer i)

/-- `MemRead(i, n)` (R8): n bytes in increasing offset order. -/
def Memory.read (m : Memory) : Nat → Nat → Except Fault (List Byte)
  | _, 0 => .ok []
  | i, n + 1 =>
    match Memory.readByte m i with
    | .error f => .error f
    | .ok x =>
      match Memory.read m (i + 1) n with
      | .error f => .error f
      | .ok xs => .ok (x :: xs)

/-! ### Registers that can hold no value (R12) -/

/-- Read a register; ⊥ is a fault, not zero. -/
def readReg {α : Type} (r : Reg) : Option α → Except Fault α
  | some x => .ok x
  | none => .error (.noValue r)

/-! ### Requests and answers (R25) -/

/-- A read of `n` bytes begins (R92, R27 (b)): on an open handle the minimum count is set to `n`, before any wait; without
one nothing is set. -/
def State.setCount (s : State) (n : Nat) : State := { s with vmin := if s.handle.isSome then .count n else s.vmin }

/-- `issue rd_req(n)`: one request becomes outstanding, and its read begins. -/
def State.issue (s : State) (n : Nat) : State := { s.setCount n with req := some n, rsp := none }

/-- The answer has been consumed: nothing is outstanding. -/
def State.answered (s : State) : State := { s with req := none, rsp := none }

/-- In a waiting stage (R13). -/
def State.waiting (s : State) : Bool :=
  s.st == .awaitHeader || s.st == .awaitLength || s.st == .awaitPayload

/-- In one of the three internal stages (R13), which no other agent can delay (R118). -/
def State.inside (s : State) : Bool :=
  s.st == .validate || s.st == .headerCheck || s.st == .success

/-- A request that the reference Transport is about to answer: it answers at once (R100). -/
def State.servedAtOnce (s : State) : Bool :=
  s.waiting && s.cfg.transport == .reference && s.req.isSome && s.rsp.isNone

/-- The block's turn, which no other agent's act precedes: an internal stage, or an answer that comes at once. -/
def State.unshared (s : State) : Bool := s.inside || s.servedAtOnce

/-! ### The end of an invocation and the next one -/

/-- `raise K` (R196): the failure lands in `status`, control goes to `Done`, and nothing else changes. -/
def State.raise (s : State) (k : Failure) : State := { s with status := .failed k, st := .done }

/-- Every register but `exp_hdr`, `st` and `status` to ⊥ (R28). -/
def State.cleared (s : State) : State :=
  { s with
    hdr := none, len := none, cnt := none, sum := none, outLen := none, buf := []
    fld := Vector.replicate 9 none, val := Vector.replicate 7 none }

/-- The beginning of an invocation by an accepted `START` (R111), which is also the return from a failure (R201). -/
def State.begin (s : State) (e : Byte) : State :=
  ({ s.cleared with expHdr := some e, status := .none, st := .awaitHeader }).issue 1

/-! ### The wire (R40, R92, R231) -/

/-- The device delivers bytes: an abandoned read takes what it still may, the rest waits at the end of the stream. -/
def State.deliver (s : State) (bs : List Byte) : State :=
  { s with wire := s.wire ++ bs.drop s.debt, debt := s.debt - bs.length }

/-- What the answer to a read of `n` bytes leaves of the Transport (R48, R92): `Ok` removes its `n` bytes from the front of
the wire for good; `ShortRead` takes some of the fewer than `n` bytes that arrived, how many is a free value, 0 to all of
them; the reference Transport takes all (R100). `Unavailable` moves nothing. -/
def State.consume (s : State) (n : Nat) (a : Answer) : State :=
  match a with
  | .ok _ => { s with wire := s.wire.drop n }
  | .shortRead =>
    match s.cfg.transport with
    | .reference => { s with wire := [] }
    | .oracle =>
      { s with
        wire := s.wire.drop (Config.shortReadTakes s.tick % (min s.wire.length (n - 1) + 1))
        tick := s.tick + 1 }
  | .unavailable => s

/-- The answer to a read of `n` bytes at the moment its wait ends (R92): the bytes that arrived before are `wire`. -/
def readAnswer (n : Nat) (s : State) : Answer :=
  match s.handle with
  | none => .unavailable
  | some _ => if n ≤ s.wire.length then .ok (s.wire.take n) else .shortRead

/-- The end of a read of `n` bytes over the model's own wire: the answer, and the Transport afterwards (R92). -/
def endRead (n : Nat) (s : State) : Answer × State := (readAnswer n s, s.consume n (readAnswer n s))

/-- A whole read of `n` bytes, from its beginning to its end (R92). -/
def transportRead (n : Nat) (s : State) : Answer × State := endRead n (s.setCount n)

/-- An outstanding request is abandoned (R230): its answer will not reach the block, and it takes a free number of bytes
from 0 to the number asked (R231), first those on the wire, then those to come, whatever the handle is or becomes (log 8, log
31). -/
def State.abandon (s : State) : State :=
  match s.req, s.rsp with
  | some n, none =>
    let k := Config.abandonedTakes s.tick % (n + 1)
    { s with
      req := none, rsp := none, abandoned := s.abandoned + 1, tick := s.tick + 1
      wire := s.wire.drop k, debt := s.debt + (k - s.wire.length) }
  | _, _ => { s with req := none, rsp := none }

/-- What `RESET` does to the block's registers (R230, R29). -/
def State.resetBlock (s : State) : State :=
  { s.cleared with st := .idle, status := .none, expHdr := none }

end Sys2Proof.Machine
end

