-- ==== Sys2Proof/Machine/Flags.lean ====
section
/-! DEFINITION. The derived flags: pure functions of `st`, `status` and `out_len` (spec/10_state.md R21). -/

namespace Sys2Proof.Machine

/-- `busy`: `st` is neither `Idle` nor `Done`. -/
def State.busy (s : State) : Bool := s.st != .idle && s.st != .done

/-- `done`: `st = Done`. -/
def State.isDone (s : State) : Bool := s.st == .done

/-- `pay_valid`: `st = Done` and `status = OK`. -/
def State.payValid (s : State) : Bool := s.st == .done && s.status == .ok

/-- `fld_valid`: `pay_valid` and `out_len = 27`. -/
def State.fldValid (s : State) : Bool := s.payValid && s.outLen == some Config.payloadLen

/-- `u_status`, the unpacker's result. -/
def State.uStatus (s : State) : Status :=
  if s.payValid then if s.fldValid then .ok else .failed .malformedPayload else .none

/-- `t_status`, the result of the whole flow. -/
def State.tStatus (s : State) : Status := if s.status = .ok then s.uStatus else s.status

end Sys2Proof.Machine
end

