-- ==== Sys2Proof/Machine/Float.lean ====
section
/-! DEFINITION. Rounding of exact quotients to a binary floating-point format, and the readings of `scale_fn`
(spec/43_scaling.md R171, R179). Numbers are fractions of naturals; the sign is carried apart. -/

namespace Sys2Proof.Machine

/-- A non-negative rational, numerator over denominator. -/
structure Frac where
  num : Nat
  den : Nat
deriving DecidableEq, Repr

/-- A number m · 2^e with a whole m. -/
structure Scaled where
  man : Nat
  exp : Int
deriving DecidableEq, Repr

/-- A quotient rounded to the nearest whole number, ties to even. -/
def divEven (a b : Nat) : Nat :=
  let q := a / b
  let r := a % b
  if 2 * r < b then q
  else if b < 2 * r then q + 1
  else if q % 2 = 0 then q
  else q + 1

/-- `x / 2^e`, rounded to a whole number, ties to even. -/
def Frac.atExp (x : Frac) (e : Int) : Nat :=
  divEven (x.num * 2 ^ (-e).toNat) (x.den * 2 ^ e.toNat)

/-- The exponent that gives `x` a significand of `p` bits before rounding: 2^(p-1) ≤ x / 2^e < 2^p. -/
def Frac.expFor (p : Nat) (x : Frac) : Int :=
  let e : Int := (Nat.log2 x.num : Int) - (Nat.log2 x.den : Int) - (p : Int)
  if x.den * 2 ^ e.toNat * 2 ^ p ≤ x.num * 2 ^ (-e).toNat then e + 1 else e

/-- `x` rounded to a significand of `p` bits, ties to even; for `x > 0`. A carry out of the significand moves the
exponent. -/
def Frac.round (p : Nat) (x : Frac) : Scaled :=
  let e := x.expFor p
  let m := x.atExp e
  if m = 2 ^ p then ⟨2 ^ (p - 1), e + 1⟩ else ⟨m, e⟩

/-- The exact value of a rounded number, as a fraction. -/
def Scaled.frac (x : Scaled) : Frac := ⟨x.man * 2 ^ x.exp.toNat, 2 ^ (-x.exp).toNat⟩

/-- The quotient of two fractions. -/
def Frac.div (x y : Frac) : Frac := ⟨x.num * y.den, x.den * y.num⟩

/-- The binary32 pattern of a rounded number of 24 significant bits in the normal range (R180: every result is). The
layout is IEEE 754's: sign, exponent with bias 127, 23 fraction bits (general knowledge, as in the spec; log 27). -/
def Scaled.bits32 (neg : Bool) (x : Scaled) : F32 :=
  BitVec.ofBool neg ++ BitVec.ofNat 8 (x.exp + 150).toNat ++ BitVec.ofNat 23 x.man

/-- `RN32`: a fraction rounded once to the nearest binary32, ties to even; zero is +0.0 (R180). -/
def rn32 (neg : Bool) (x : Frac) : F32 := if x.num = 0 then 0 else (x.round 24).bits32 neg

/-- `DIV[k]` for k = j + 2, the exact rational (R171). -/
def divisor (j : Fin 7) : Frac :=
  match j with
  | 0 => ⟨1000, 1⟩
  | 1 => ⟨1287001287, 10000⟩
  | 2 => ⟨200, 1⟩
  | 3 => ⟨200, 1⟩
  | 4 => ⟨1000, 1⟩
  | 5 => ⟨1000, 1⟩
  | 6 => ⟨1000, 1⟩

/-- The default `scale_fn` (R179): the exact quotient `v / DIV[k]`, rounded once. -/
def scaleExact (j : Fin 7) (v : Word) : F32 :=
  rn32 v.msb (Frac.div ⟨v.toInt.natAbs, 1⟩ (divisor j))

/-- Reading (ii) and (iii) of R179: the divisor, the integer and the quotient rounded to `p` bits, then the quotient to
binary32; p = 53 for binary64, p = 24 for binary32. -/
def scaleVia (p : Nat) (j : Fin 7) (v : Word) : F32 :=
  if v = 0 then 0
  else
    let a := ((Frac.mk v.toInt.natAbs 1).round p).frac
    let d := ((divisor j).round p).frac
    rn32 v.msb ((a.div d).round p).frac

/-- `scale_fn(k, v)` for k = j + 2 in the reading the machine has (R179). -/
def scaleFn (r : ScaleReading) (j : Fin 7) (v : Word) : F32 :=
  match r with
  | .exact => scaleExact j v
  | .binary64 => scaleVia 53 j v
  | .binary32 => scaleVia 24 j v
  | .unknown => Config.scaleUnknown (j.val + 2) v

end Sys2Proof.Machine
end

