-- ==== Sys2Proof/Machine/Operands.lean ====
section
/-! DEFINITION. How operands are formed from the registers and the buffer: the three bytes of a field (spec/30_encoding.md
R67), its sign extension (R142), the source and destination of a scaling, and the outputs the caller reads (R25). -/

namespace Sys2Proof.Machine

/-- `{b2, b1, b0}`, the least significant byte first in the buffer (R43, R67). -/
def rawOf (b0 b1 b2 : Byte) : Raw := b2 ++ b1 ++ b0

/-- `SEXT24` as the source gives it: with bit 23 set, OR in 0xFF000000, else zero-extend (R142). -/
def sext24 (raw : Raw) : Word :=
  if raw.getLsbD 23 then raw.setWidth 32 ||| 0xFF000000#32 else raw.setWidth 32

/-- `raw_k` from `buf[3k]`, `buf[3k+1]`, `buf[3k+2]` (R42, R67). -/
def rawField (m : Memory) (k : Fin 9) : Except Fault Raw :=
  match Memory.readByte m (3 * k.val), Memory.readByte m (3 * k.val + 1), Memory.readByte m (3 * k.val + 2) with
  | .ok b0, .ok b1, .ok b2 => .ok (rawOf b0 b1 b2)
  | .error f, _, _ => .error f
  | .ok _, .error f, _ => .error f
  | .ok _, .ok _, .error f => .error f

/-- `fld[k] <- v`. -/
def State.setFld (s : State) (k : Fin 9) (v : Word) : State := { s with fld := s.fld.set k.val (some v) }

/-- `val[j+2] <- x`. -/
def State.setVal (s : State) (j : Fin 7) (x : F32) : State := { s with val := s.val.set j.val (some x) }

/-- `EXTRACT k`: `fld[k] <- SEXT24({buf[3k+2], buf[3k+1], buf[3k]})` (R143 to R151). -/
def extractInto (k : Fin 9) (s : State) : Except Fault State :=
  match rawField s.buf k with
  | .ok raw => .ok (s.setFld k (sext24 raw))
  | .error f => .error f

/-- The source register of `SCALE k` with k = j + 2: `fld[j+2]`. -/
def scaleSource (s : State) (j : Fin 7) : Except Fault Word :=
  readReg (.fld (j.val + 2)) (s.fld[j.val + 2]'(by omega))

/-- `SCALE k`: `val[k] <- scale_fn(k, fld[k])`, k = j + 2 (R172 to R178). -/
def scaleInto (j : Fin 7) (s : State) : Except Fault State :=
  match scaleSource s j with
  | .ok v => .ok (s.setVal j (scaleFn s.cfg.scale j v))
  | .error f => .error f

/-- Run one fault-or-go-on operation for each index of a list. -/
def forEach {ι : Type} (f : ι → State → Except Fault State) : List ι → State → Except Fault State
  | [], s => .ok s
  | k :: ks, s =>
    match f k s with
    | .ok t => forEach f ks t
    | .error e => .error e

/-- `UNPACK` (R141): the length test first; then all nine fields and seven values, or none of them. -/
def unpackInto (s : State) : Except Fault State :=
  match readReg .outLen s.outLen with
  | .error f => .error f
  | .ok n =>
    if n = Config.payloadLen then
      match forEach extractInto [0, 1, 2, 3, 4, 5, 6, 7, 8] s with
      | .ok t => forEach scaleInto [0, 1, 2, 3, 4, 5, 6] t
      | .error f => .error f
    else .ok { s with fld := Vector.replicate 9 none, val := Vector.replicate 7 none }

/-! ### The outputs (R25), as the caller reads them (R21, R197, R242) -/

/-- `out_len`, meaningful when `pay_valid`. -/
def State.readOutLen (s : State) : Except Fault Byte :=
  if s.payValid then readReg .outLen s.outLen else .error (.noValue .outLen)

/-- The data payload `buf[0..out_len-1]`, meaningful when `pay_valid`. -/
def State.readPayload (s : State) : Except Fault (List Byte) :=
  if s.payValid then
    match readReg .outLen s.outLen with
    | .ok n => Memory.read s.buf 0 n.toNat
    | .error f => .error f
  else .error (.noValue .payload)

/-- `fld[j+2]`, meaningful when `fld_valid`; `fld[0]` and `fld[1]` are no outputs (R22). -/
def State.readFld (s : State) (j : Fin 7) : Except Fault Word :=
  if s.fldValid then scaleSource s j else .error (.noValue (.fld (j.val + 2)))

/-- `val[j+2]`, meaningful when `fld_valid`. -/
def State.readVal (s : State) (j : Fin 7) : Except Fault F32 :=
  if s.fldValid then readReg (.val (j.val + 2)) s.val[j.val] else .error (.noValue (.val (j.val + 2)))

end Sys2Proof.Machine
end

