-- ==== Sys2Proof/Machine/FrameReader.lean ====
section
/-! DEFINITION. The frame reader F: `START` and the six stages (spec/41_frame_reader.md R111 to R117). -/

namespace Sys2Proof.Machine

/-- Run a stage operation in its own stage; R119 has no transition for it in another. -/
def inStage (st : Stage) (s : State) (r : Result) : Result :=
  if s.st = st then r else .refused (.notSelected s.st)

/-- `START e` (R111): accepted when not busy; while busy nothing changes (R241). -/
def execStart (e : Byte) (s : State) : Result :=
  if s.busy then .next s else .next (s.begin e)

/-- `AWAIT_HEADER` (R112). -/
def execAwaitHeader (a : Answer) (s : State) : Result :=
  inStage .awaitHeader s <|
    match a with
    | .ok [b] => .next (State.issue { s with hdr := some b, sum := some b, st := .awaitLength } 1)
    | .ok _ => .refused .answerLength
    | .shortRead => .next (s.answered.raise .timeout)
    | .unavailable => .next (s.answered.raise .noDevice)

/-- `AWAIT_LENGTH` (R113): the length byte is stored and summed, then tested; `b - 2` is formed only for b ≥ 3. -/
def execAwaitLength (a : Answer) (s : State) : Result :=
  inStage .awaitLength s <|
    match a with
    | .ok [b] =>
      orFault (readReg .sum s.sum) fun sm =>
        let t := { s.answered with len := some b, sum := some (sm + b) }
        if b.toNat < Config.lenMin then .next (t.raise .malformedPayload)
        else .next (State.issue { t with cnt := some (b - 2), st := .awaitPayload } (b.toNat - 2))
    | .ok _ => .refused .answerLength
    | .shortRead => .next (s.answered.raise .timeout)
    | .unavailable => .next (s.answered.raise .timeout)

/-- `AWAIT_PAYLOAD` (R114): the whole body lands at offset 0 in one step. -/
def execAwaitPayload (a : Answer) (s : State) : Result :=
  inStage .awaitPayload s <|
    match a with
    | .ok bs =>
      orFault (readReg .cnt s.cnt) fun c =>
        if bs.length = c.toNat then
          orFault (readReg .sum s.sum) fun sm =>
            orFault (Memory.write s.buf 0 bs) fun m =>
              .next { s.answered with buf := m, sum := some (sm + sum8 bs), st := .validate }
        else .refused .answerLength
    | .shortRead => .next (s.answered.raise .timeout)
    | .unavailable => .next (s.answered.raise .timeout)

/-- `VALIDATE` (R115): the residual of the whole frame. -/
def execValidate (s : State) : Result :=
  inStage .validate s <|
    orFault (readReg .sum s.sum) fun sm =>
      if sm = 0 then .next { s with st := .headerCheck } else .next (s.raise .checksumMismatch)

/-- `HEADER_CHECK` (R116). -/
def execHeaderCheck (s : State) : Result :=
  inStage .headerCheck s <|
    orFault (readReg .hdr s.hdr) fun h =>
      orFault (readReg .expHdr s.expHdr) fun e =>
        if h = e then .next { s with st := .success } else .next (s.raise .unexpectedHeader)

/-- `SUCCESS` (R117): the payload length, the result, then `UNPACK`. -/
def execSuccess (s : State) : Result :=
  inStage .success s <|
    orFault (readReg .len s.len) fun l =>
      orFault (unpackInto { s with outLen := some (l - 3), status := .ok }) fun t =>
        .next { t with st := .done }

end Sys2Proof.Machine
end

