-- ==== Sys2Proof/Machine/Scaler.lean ====
section
/-! DEFINITION. The scaler S: `SCALE 2` to `SCALE 8` (spec/43_scaling.md R172 to R178), each as an operation of its own. -/

namespace Sys2Proof.Machine

/-- `SCALE 2`, Vrms (R172). -/
def execScale2 (s : State) : Result := orFault (scaleInto 0 s) .next

/-- `SCALE 3`, Irms (R173). -/
def execScale3 (s : State) : Result := orFault (scaleInto 1 s) .next

/-- `SCALE 4`, Watts (R174). -/
def execScale4 (s : State) : Result := orFault (scaleInto 2 s) .next

/-- `SCALE 5`, Pavg (R175). -/
def execScale5 (s : State) : Result := orFault (scaleInto 3 s) .next

/-- `SCALE 6`, PF (R176). -/
def execScale6 (s : State) : Result := orFault (scaleInto 4 s) .next

/-- `SCALE 7`, Freq (R177). -/
def execScale7 (s : State) : Result := orFault (scaleInto 5 s) .next

/-- `SCALE 8`, KwH (R178). -/
def execScale8 (s : State) : Result := orFault (scaleInto 6 s) .next

end Sys2Proof.Machine
end

