-- ==== Sys2Proof/Machine/Transport.lean ====
section
/-! DEFINITION. The Transport's five primitives (spec/40_transport.md R92 to R96), the reset event (spec/70 R230) and the
frames the device puts on the wire (spec/30_encoding.md R61). -/

namespace Sys2Proof.Machine

/-- `T_OPEN` (R93): fails on an empty path and when the device cannot be opened or configured. What an abandoned read may still
take stands (DESIGN CHOICE, log 31). -/
def execTOpen (path : List Byte) (opens : Bool) (s : State) : Result :=
  if path ≠ [] ∧ opens = true then .next { s with handle := some path, tret := .handle }
  else .next { s with tret := .deviceUnavailable }

/-- `T_READ n` (R92): in an invocation it serves the block's own outstanding request, whose read began when the request was
issued (`State.issue`), and its answer goes to channel `rd_rsp`; with the block at rest it is the caller's whole read. Any
other read during an invocation is a second reader (R240). -/
def execTRead (n : Nat) (s : State) : Result :=
  if n = 0 then .refused .zeroRead
  else if s.busy then
    if s.req = some n ∧ s.rsp = none then
      .next { (endRead n s).2 with rsp := some (endRead n s).1 }
    else .refused .secondReader
  else .next { (transportRead n s).2 with tret := .read (transportRead n s).1 }

/-- `T_WRITE` (R94): success only if all the bytes were transmitted; none can be without an open handle. -/
def execTWrite (bs : List Byte) (taken : Nat) (s : State) : Result :=
  match s.handle with
  | none => .next { s with tret := .shortWrite }
  | some _ =>
    .next { s with
      sent := s.sent ++ bs.take taken
      tret := if bs.length ≤ taken then .wrote bs.length else .shortWrite }

/-- `T_RESET` (R95). What an abandoned read may still take stands (DESIGN CHOICE, log 31). -/
def execTReset (s : State) : Result := .next { s with vmin := .nonBlocking, tret := .finished }

/-- `T_CLOSE` (R96): a null handle stays null. A read that `RESET` abandoned still takes the bytes it may, those that arrive after
the close too (DESIGN CHOICE, log 31; unsafe). -/
def execTClose (s : State) : Result := .next { s with handle := none, tret := .finished }

/-- `RESET` (R230): every stage; the outstanding request is abandoned, the Transport is not reset (R231). -/
def execReset (s : State) : Result := .next s.abandon.resetBlock

/-- `FRAME` (R61): the device delivers the frame's bytes in wire order (log 15). -/
def execFrame (h l : Byte) (data : List Byte) (c : Byte) (s : State) : Result :=
  .next (s.deliver (frameBytes h l data c))

/-- `TELEMETRY_REPORT` (R61, R66): the same with header 0xAE and length 0x1E. -/
def execTelemetryReport (data : List Byte) (c : Byte) (s : State) : Result :=
  .next (s.deliver (frameBytes Config.telemetryHeader Config.telemetryLen data c))

end Sys2Proof.Machine
end

