-- ==== Sys2Proof/Machine/Unpacker.lean ====
section
/-! DEFINITION. The payload unpacker U: `UNPACK`, `SEXT24`, `EXTRACT 0` to `EXTRACT 8` (spec/42_payload_unpacker.md R141
to R151), each as an operation of its own. -/

namespace Sys2Proof.Machine

/-- `UNPACK` (R141). -/
def execUnpack (s : State) : Result := orFault (unpackInto s) .next

/-- `SEXT24` (R142): a pure function; run by itself, its result stands in the model's own `sextOut` (log 18). -/
def execSext24 (raw : Raw) (s : State) : Result := .next { s with sextOut := sext24 raw }

/-- `EXTRACT 0`, Reserved1 (R143). -/
def execExtract0 (s : State) : Result := orFault (extractInto 0 s) .next

/-- `EXTRACT 1`, Reserved2 (R144). -/
def execExtract1 (s : State) : Result := orFault (extractInto 1 s) .next

/-- `EXTRACT 2`, Vrms (R145). -/
def execExtract2 (s : State) : Result := orFault (extractInto 2 s) .next

/-- `EXTRACT 3`, Irms (R146). -/
def execExtract3 (s : State) : Result := orFault (extractInto 3 s) .next

/-- `EXTRACT 4`, Watts (R147). -/
def execExtract4 (s : State) : Result := orFault (extractInto 4 s) .next

/-- `EXTRACT 5`, Pavg (R148). -/
def execExtract5 (s : State) : Result := orFault (extractInto 5 s) .next

/-- `EXTRACT 6`, PF (R149). -/
def execExtract6 (s : State) : Result := orFault (extractInto 6 s) .next

/-- `EXTRACT 7`, Freq (R150). -/
def execExtract7 (s : State) : Result := orFault (extractInto 7 s) .next

/-- `EXTRACT 8`, KwH (R151). -/
def execExtract8 (s : State) : Result := orFault (extractInto 8 s) .next

end Sys2Proof.Machine
end

