-- ==== Sys2Proof/Machine/Dispatch.lean ====
section
/-! DEFINITION. One arm per operation (spec/30_encoding.md R74). -/

namespace Sys2Proof.Machine

def exec (i : Instr) (s : State) : Host.Outcome State Fault Refusal :=
  match i with
  | .start e => Sys2Proof.Machine.execStart e s
  | .awaitHeader a => Sys2Proof.Machine.execAwaitHeader a s
  | .awaitLength a => Sys2Proof.Machine.execAwaitLength a s
  | .awaitPayload a => Sys2Proof.Machine.execAwaitPayload a s
  | .validate => Sys2Proof.Machine.execValidate s
  | .headerCheck => Sys2Proof.Machine.execHeaderCheck s
  | .success => Sys2Proof.Machine.execSuccess s
  | .unpack => Sys2Proof.Machine.execUnpack s
  | .sext24 raw => Sys2Proof.Machine.execSext24 raw s
  | .extract0 => Sys2Proof.Machine.execExtract0 s
  | .extract1 => Sys2Proof.Machine.execExtract1 s
  | .extract2 => Sys2Proof.Machine.execExtract2 s
  | .extract3 => Sys2Proof.Machine.execExtract3 s
  | .extract4 => Sys2Proof.Machine.execExtract4 s
  | .extract5 => Sys2Proof.Machine.execExtract5 s
  | .extract6 => Sys2Proof.Machine.execExtract6 s
  | .extract7 => Sys2Proof.Machine.execExtract7 s
  | .extract8 => Sys2Proof.Machine.execExtract8 s
  | .scale2 => Sys2Proof.Machine.execScale2 s
  | .scale3 => Sys2Proof.Machine.execScale3 s
  | .scale4 => Sys2Proof.Machine.execScale4 s
  | .scale5 => Sys2Proof.Machine.execScale5 s
  | .scale6 => Sys2Proof.Machine.execScale6 s
  | .scale7 => Sys2Proof.Machine.execScale7 s
  | .scale8 => Sys2Proof.Machine.execScale8 s
  | .tOpen path opens => Sys2Proof.Machine.execTOpen path opens s
  | .tRead n => Sys2Proof.Machine.execTRead n s
  | .tWrite bs taken => Sys2Proof.Machine.execTWrite bs taken s
  | .tReset => Sys2Proof.Machine.execTReset s
  | .tClose => Sys2Proof.Machine.execTClose s
  | .reset => Sys2Proof.Machine.execReset s
  | .frame h l data c => Sys2Proof.Machine.execFrame h l data c s
  | .telemetryReport data c => Sys2Proof.Machine.execTelemetryReport data c s

end Sys2Proof.Machine
end

