-- ==== Sys2Proof/Machine/Select.lean ====
section
/-! DEFINITION. Which operation comes next: the counterpart of fetching (spec/30_encoding.md R74 "selected by",
spec/41_frame_reader.md R119). -/

namespace Sys2Proof.Machine

/-- What a step does. -/
inductive Fetched where
  /-- Run the operation. -/
  | run (i : Instr) (s : State)
  /-- No operation: the state stands. -/
  | stay (s : State)
  /-- The act is outside the spec. -/
  | refuse (r : Refusal)
deriving DecidableEq, Repr

/-- A waiting stage: its operation runs on an answer (R112 to R114). Without one the reference Transport answers at once
(R100); for the oracle the block waits, for ever if need be (R91, R244). -/
def selectWaiting (op : Answer → Instr) (s : State) : Fetched :=
  match s.rsp with
  | some a => .run (op a) s
  | none =>
    match s.cfg.transport, s.req with
    | .reference, some n => .run (.tRead n) s
    | .reference, none => .stay s
    | .oracle, _ => .stay s

/-- The block's own next operation, by `st`; in `Idle` and `Done` it takes no step (R202, R232). -/
def selectBlock (s : State) : Fetched :=
  match s.st with
  | .idle => .stay s
  | .awaitHeader => selectWaiting .awaitHeader s
  | .awaitLength => selectWaiting .awaitLength s
  | .awaitPayload => selectWaiting .awaitPayload s
  | .validate => .run .validate s
  | .headerCheck => .run .headerCheck s
  | .success => .run .success s
  | .done => .stay s

/-- The oracle answers the outstanding request (R91): exactly one answer, of the length asked for (R92), which leaves the
Transport as a read of that size with that answer does (R48). -/
def selectAnswer (a : Answer) (s : State) : Fetched :=
  match s.cfg.transport, s.req, s.rsp with
  | .reference, _, _ => .refuse .answerUnderReference
  | .oracle, some n, none => if a.fits n then .stay { s.consume n a with rsp := some a } else .refuse .answerLength
  | .oracle, _, _ => .refuse .answerWithoutRequest

/-- An answer to an abandoned request is not delivered to the block (R230). -/
def selectLate (s : State) : Fetched :=
  match s.abandoned with
  | n + 1 => .stay { s with abandoned := n }
  | 0 => .refuse .answerWithoutRequest

/-- The device delivers bytes: frame by frame where frames stand at the front, the rest as they are. -/
def selectWire (bs : List Byte) (s : State) : Fetched :=
  match decodeFrame bs with
  | .ok (i, []) => .run i s
  | .ok (i, b :: rest) => .run i { s with schedule := .wire (b :: rest) :: s.schedule }
  | .error _ => .stay (s.deliver bs)

/-- One act of an agent. -/
def selectEvent (ev : Event) (s : State) : Fetched :=
  match ev with
  | .block => selectBlock s
  | .cmd w =>
    match decodeCommand w with
    | .ok i => .run i s
    | .error _ => .refuse (.notACommand (w.extractLsb' 8 8))
  | .rst => .run .reset s
  | .wire bs => selectWire bs s
  | .answer a => selectAnswer a s
  | .lateAnswer _ => selectLate s
  | .tOpen path opens => .run (.tOpen path opens) s
  | .tRead n => if s.busy then .refuse .secondReader else .run (.tRead n) s
  | .tWrite bs taken => .run (.tWrite bs taken) s
  | .tReset => .run .tReset s
  | .tClose => .run .tClose s

/-- The act that offers a table word: a command on channel `cmd`, or the bytes of the frame that it begins. -/
def tableEvent (nbits w : Nat) : Event :=
  match if nbits ≤ 16 then decodeCommand (BitVec.ofNat 16 (w % 2 ^ nbits)) else .error (.notACommand 0) with
  | .ok _ => .cmd (BitVec.ofNat 16 (w % 2 ^ nbits))
  | .error _ =>
    match tableBytes nbits w with
    | h :: l :: rest => .wire ((h :: l :: rest).take l.toNat)
    | bs => .wire bs

/-- The acts that are taken when the block's turn is unshared: that turn itself, and `RESET`, which takes effect in any stage
(R230). No other agent's act comes between: none can delay the internal stages (R118), and the reference Transport answers at
once (R100). -/
def Event.cutsIn : Event → Bool
  | .block => true
  | .rst => true
  | .cmd _ | .wire _ | .answer _ | .lateAnswer _ => false
  | .tOpen _ _ | .tRead _ | .tWrite _ _ | .tReset | .tClose => false

/-- The next thing to happen: the first act of the schedule; with none left, or where the act may not come before the block's
unshared turn, the block's own next operation. -/
def fetch (s : State) : Fetched :=
  match s.schedule with
  | [] => selectBlock s
  | ev :: rest => if s.unshared && !ev.cutsIn then selectBlock s else selectEvent ev { s with schedule := rest }

end Sys2Proof.Machine
end

