-- ==== Sys2Proof/Machine/Step.lean ====
section
/-! DEFINITION. One step of the machine, and how a table word is put where the next step takes it. -/

namespace Sys2Proof.Machine

/-- One step (R10): select, then run. -/
def step (s : State) : Host.Outcome State Fault Refusal :=
  match fetch s with
  | .run i t => exec i t
  | .stay t => .next t
  | .refuse r => .refused r

/-- `s` with that act as the very next one (an unshared turn of the block comes before any act, R118, R100). -/
def State.withFetchWord (s : State) (nbits w : Nat) : State :=
  { s with schedule := tableEvent nbits w :: s.schedule }

end Sys2Proof.Machine
end

