-- ==== Sys2Proof/Machine/Frames.lean ====
section
/-! DEFINITION. The spec's own functions over byte strings: frame predicates and the frame constructor (spec/30_encoding.md
R72), an invocation as one function (spec/41_frame_reader.md R121), the unpacker as a pure function and its inverse
(spec/42_payload_unpacker.md R141, R154), and the number a binary32 pattern stands for. No operation calls them; claims
compare the machine with them. -/

namespace Sys2Proof.Machine

/-- `well_sized(f)`: at least 3 bytes, and the second byte counts them (R72). -/
def wellSized : List Byte → Bool
  | h :: l :: rest => decide (3 ≤ (h :: l :: rest).length ∧ l.toNat = (h :: l :: rest).length)
  | _ => false

/-- `checksum_ok(f)`: the residual is zero (R72, R64). -/
def checksumOk (f : List Byte) : Bool := sum8 f == 0

/-- `frame_ok(e, f)` (R72). -/
def frameOk (e : Byte) (f : List Byte) : Bool := wellSized f && checksumOk f && f.head? == some e

/-- `payload_of(f)`: the |f| - 3 bytes after the length byte (R72); none where |f| < 3 (DESIGN CHOICE, log 32). -/
def payloadOf (f : List Byte) : List Byte := (f.drop 2).take (f.length - 3)

/-- `mk_frame(h, d)` (R72), which the spec defines for |d| ≤ 252; for a longer d the length byte wraps modulo 256 (DESIGN
CHOICE, log 32). -/
def mkFrame (h : Byte) (d : List Byte) : List Byte :=
  let l := BitVec.ofNat 8 (d.length + 3)
  frameBytes h l d (neg8 (sum8 (h :: l :: d)))

/-- The result of an invocation (R121). -/
inductive ReadResult where
  | failed (k : Failure)
  | ok (outLen : Byte) (payload : List Byte)
deriving DecidableEq, Repr

/-- The tests on a whole frame (R121): residual, header, then success with the body less its last byte. -/
def judge (e h l : Byte) (body : List Byte) : ReadResult :=
  if sum8 (h :: l :: body) ≠ 0 then .failed .checksumMismatch
  else if h ≠ e then .failed .unexpectedHeader
  else .ok (l - 3) (body.take (l.toNat - 3))

/-- `read_frame(e, a1, a2, a3)` (R121); `none` where an answer has not the length of its request (U17). -/
def readFrame (e : Byte) (a1 a2 a3 : Answer) : Option ReadResult :=
  match a1 with
  | .unavailable => some (.failed .noDevice)
  | .shortRead => some (.failed .timeout)
  | .ok [h] =>
    match a2 with
    | .shortRead => some (.failed .timeout)
    | .unavailable => some (.failed .timeout)
    | .ok [l] =>
      if l.toNat < 3 then some (.failed .malformedPayload)
      else
        match a3 with
        | .shortRead => some (.failed .timeout)
        | .unavailable => some (.failed .timeout)
        | .ok b => if b.length = l.toNat - 2 then some (judge e h l b) else none
    | .ok _ => none
  | .ok _ => none

/-- The wire bytes that the `Ok` answers of an invocation take (R120): 1 and 1, then the body where it is asked for. -/
def okBytes (a1 a2 a3 : Answer) : Nat :=
  match a1, a2, a3 with
  | .ok _, .ok [l], .ok _ => if l.toNat < 3 then 2 else l.toNat
  | .ok _, .ok _, _ => 2
  | .ok _, _, _ => 1
  | _, _, _ => 0

/-- The size of the last read that an invocation issues (R120). -/
def lastAsked (a1 a2 : Answer) : Nat :=
  match a1, a2 with
  | .ok _, .ok [l] => if l.toNat < 3 then 1 else l.toNat - 2
  | _, _ => 1

/-- `read_frame_w(e, w)` under the reference Transport, with the wire left over (R121). -/
def readFrameW (e : Byte) (isOpen : Bool) (w : List Byte) : ReadResult × List Byte :=
  if isOpen then
    match w with
    | h :: l :: rest =>
      if l.toNat < 3 then (.failed .malformedPayload, rest)
      else if w.length < l.toNat then (.failed .timeout, [])
      else (judge e h l (rest.take (l.toNat - 2)), rest.drop (l.toNat - 2))
    | _ => (.failed .timeout, [])
  else (.failed .noDevice, w)

/-- `unpack(p)`: `none` for MalformedPayload, else the nine integers (R141). -/
def unpackPayload (p : List Byte) : Option (Vector Word 9) :=
  if p.length = 27 then
    some (Vector.ofFn fun k => sext24 (rawOf (p.getD (3 * k.val) 0) (p.getD (3 * k.val + 1) 0) (p.getD (3 * k.val + 2) 0)))
  else none

/-- The three bytes of one field, low byte first (R154); a value outside 24 bits signed loses its high byte (DESIGN CHOICE, log
32). -/
def packField (v : Word) : List Byte := [v.extractLsb' 0 8, v.extractLsb' 8 8, v.extractLsb' 16 8]

/-- `pack(v)` (R154). -/
def pack (v : Vector Word 9) : List Byte := v.toList.flatMap packField

/-- `val[2..8]` of nine field values, in a reading of `scale_fn` (R172 to R178). -/
def scaled (r : ScaleReading) (v : Vector Word 9) : Vector (Option F32) 7 :=
  Vector.ofFn fun j => some (scaleFn r j (v[j.val + 2]'(by omega)))

/-- The number a binary32 pattern stands for, `none` for infinities and NaNs (IEEE 754; log 27). -/
def f32Value (x : F32) : Option ℚ :=
  let sign : ℚ := if x.getLsbD 31 then -1 else 1
  let e := (x.extractLsb' 23 8).toNat
  let f := (x.extractLsb' 0 23).toNat
  if e = 255 then none
  else if e = 0 then some (sign * (f : ℚ) * (2 : ℚ) ^ (-149 : ℤ))
  else some (sign * ((2 ^ 23 + f : ℕ) : ℚ) * (2 : ℚ) ^ ((e : ℤ) - 150))

end Sys2Proof.Machine
end

