-- ==== Sys2Proof/Safety.lean ====
section
/-! DEFINITION. What claims are stated in: the invariant of the machine (spec/10_state.md R12 to R24), the transition table
(spec/41_frame_reader.md R119), and the schedules of one invocation. -/

namespace Sys2Proof.Machine

/-- The payload and field outputs hold no value (R12, R197). -/
def State.NoOutputs (s : State) : Prop :=
  s.outLen = none ∧ s.fld = Vector.replicate 9 none ∧ s.val = Vector.replicate 7 none

/-- A frame under assembly, whole: header, length, body and their sum (R15 to R18, R24, R41). -/
structure State.Holds (s : State) (h l : Byte) (body : List Byte) : Prop where
  hdr : s.hdr = some h
  len : s.len = some l
  atLeast : Config.lenMin ≤ l.toNat
  size : body.length = l.toNat - 2
  cnt : s.cnt = some (l - 2)
  buf : s.buf = Memory.setBytes [] 0 body
  sum : s.sum = some (sum8 (h :: l :: body))

/-- The outputs of a successful invocation (R19, R22, R23): the length without the checksum byte; the nine fields and seven
values of a 27-byte payload, none of any other. -/
def State.Published (s : State) (l : Byte) (body : List Byte) : Prop :=
  s.outLen = some (l - 3) ∧
    match unpackPayload (body.take (l.toNat - 3)) with
    | some v => s.fld = v.map some ∧ s.val = scaled s.cfg.scale v
    | none => s.fld = Vector.replicate 9 none ∧ s.val = Vector.replicate 7 none

/-- What holds in each stage (R12 to R24, R29, R111 to R117). -/
def State.StageInv (s : State) : Prop :=
  match s.st with
  | .idle =>
    s.status = .none ∧ s.expHdr = none ∧ s.hdr = none ∧ s.len = none ∧ s.cnt = none ∧ s.sum = none ∧ s.buf = [] ∧
      s.NoOutputs ∧ s.req = none
  | .awaitHeader =>
    s.status = .none ∧ s.expHdr.isSome ∧ s.hdr = none ∧ s.len = none ∧ s.cnt = none ∧ s.sum = none ∧ s.buf = [] ∧
      s.NoOutputs ∧ s.req = some 1
  | .awaitLength =>
    s.status = .none ∧ s.expHdr.isSome ∧ s.hdr.isSome ∧ s.sum = s.hdr ∧ s.len = none ∧ s.cnt = none ∧ s.buf = [] ∧
      s.NoOutputs ∧ s.req = some 1
  | .awaitPayload =>
    s.status = .none ∧ s.expHdr.isSome ∧ s.buf = [] ∧ s.NoOutputs ∧
      ∃ h l, s.hdr = some h ∧ s.len = some l ∧ Config.lenMin ≤ l.toNat ∧ s.cnt = some (l - 2) ∧
        s.sum = some (h + l) ∧ s.req = some (l.toNat - 2)
  | .validate =>
    s.status = .none ∧ s.expHdr.isSome ∧ s.NoOutputs ∧ s.req = none ∧ ∃ h l body, s.Holds h l body
  | .headerCheck =>
    s.status = .none ∧ s.expHdr.isSome ∧ s.NoOutputs ∧ s.req = none ∧
      ∃ h l body, s.Holds h l body ∧ sum8 (h :: l :: body) = 0
  | .success =>
    s.status = .none ∧ s.NoOutputs ∧ s.req = none ∧
      ∃ h l body, s.Holds h l body ∧ sum8 (h :: l :: body) = 0 ∧ s.expHdr = some h
  | .done =>
    s.expHdr.isSome ∧ s.req = none ∧
      ((∃ k, s.status = .failed k ∧ s.NoOutputs) ∨
        (s.status = .ok ∧
          ∃ h l body, s.Holds h l body ∧ sum8 (h :: l :: body) = 0 ∧ s.expHdr = some h ∧ s.Published l body))

/-- The invariant: the buffer is canonical and in bounds (R40, R49), an answer fits the request it answers (R92), and the
stage's registers are as the rules left them. -/
structure State.Inv (s : State) : Prop where
  mem : s.buf.wf = true
  answer : ∀ a, s.rsp = some a → ∃ n, s.req = some n ∧ a.fits n = true
  stage : s.StageInv

/-- The rows of R119: an operation, the stage and state before, the state after. Status NONE and the request issued are
those of the table's last columns. -/
inductive Transition : Instr → State → State → Prop where
  | reset {s t} (h : t.st = .idle) (hs : t.status = .none) (hr : t.req = none) : Transition .reset s t
  | start {e s t} (b : s.st = .idle ∨ s.st = .done) (h : t.st = .awaitHeader) (hs : t.status = .none)
      (hr : t.req = some 1) : Transition (.start e) s t
  | headerOk {b s t} (h0 : s.st = .awaitHeader) (h : t.st = .awaitLength) (hs : t.status = s.status)
      (hr : t.req = some 1) : Transition (.awaitHeader (.ok [b])) s t
  | headerShort {s t} (h0 : s.st = .awaitHeader) (h : t.st = .done) (hs : t.status = .failed .timeout)
      (hr : t.req = none) : Transition (.awaitHeader .shortRead) s t
  | headerUnavailable {s t} (h0 : s.st = .awaitHeader) (h : t.st = .done) (hs : t.status = .failed .noDevice)
      (hr : t.req = none) : Transition (.awaitHeader .unavailable) s t
  | lengthOk {b s t} (h0 : s.st = .awaitLength) (hb : 3 ≤ b.toNat) (h : t.st = .awaitPayload)
      (hs : t.status = s.status) (hr : t.req = some (b.toNat - 2)) : Transition (.awaitLength (.ok [b])) s t
  | lengthBad {b s t} (h0 : s.st = .awaitLength) (hb : b.toNat < 3) (h : t.st = .done)
      (hs : t.status = .failed .malformedPayload) (hr : t.req = none) : Transition (.awaitLength (.ok [b])) s t
  | lengthFailed {a s t} (h0 : s.st = .awaitLength) (ha : a = .shortRead ∨ a = .unavailable) (h : t.st = .done)
      (hs : t.status = .failed .timeout) (hr : t.req = none) : Transition (.awaitLength a) s t
  | payloadOk {bs s t} (h0 : s.st = .awaitPayload) (h : t.st = .validate) (hs : t.status = s.status)
      (hr : t.req = none) : Transition (.awaitPayload (.ok bs)) s t
  | payloadFailed {a s t} (h0 : s.st = .awaitPayload) (ha : a = .shortRead ∨ a = .unavailable) (h : t.st = .done)
      (hs : t.status = .failed .timeout) (hr : t.req = none) : Transition (.awaitPayload a) s t
  | residual {s t} (h0 : s.st = .validate) (hv : s.sum ≠ some 0) (h : t.st = .done)
      (hs : t.status = .failed .checksumMismatch) (hr : t.req = s.req) : Transition .validate s t
  | summed {s t} (h0 : s.st = .validate) (hv : s.sum = some 0) (h : t.st = .headerCheck) (hs : t.status = s.status)
      (hr : t.req = s.req) : Transition .validate s t
  | otherHeader {s t} (h0 : s.st = .headerCheck) (hv : s.hdr ≠ s.expHdr) (h : t.st = .done)
      (hs : t.status = .failed .unexpectedHeader) (hr : t.req = s.req) : Transition .headerCheck s t
  | sameHeader {s t} (h0 : s.st = .headerCheck) (hv : s.hdr = s.expHdr) (h : t.st = .success)
      (hs : t.status = s.status) (hr : t.req = s.req) : Transition .headerCheck s t
  | success {s t} (h0 : s.st = .success) (h : t.st = .done) (hs : t.status = .ok) (hr : t.req = s.req) :
      Transition .success s t

/-- The acts of one invocation under the oracle (R91): the command, then each answer that is asked for with the block's
step on it, then the block's three internal steps; a2 and a3 appear only where their read is issued (R121). -/
def oracleSchedule (e : Byte) (a1 a2 a3 : Answer) : List Event :=
  .cmd (startWord e) :: .answer a1 :: .block ::
    match a1, a2 with
    | .ok _, .ok [l] =>
      .answer a2 :: .block :: if l.toNat < 3 then [] else [.answer a3, .block, .block, .block, .block]
    | .ok _, _ => [.answer a2, .block]
    | _, _ => []

/-- What the outputs of a finished invocation say (R121): the status, and after a success the length and the payload. -/
def State.Shows (s : State) : ReadResult → Prop
  | .failed k => s.st = .done ∧ s.status = .failed k
  | .ok n p => s.st = .done ∧ s.status = .ok ∧ s.readOutLen = .ok n ∧ s.readPayload = .ok p

end Sys2Proof.Machine
end

