-- ==== Sys2Proof/Certificates/Slice0/Obligations.lean ====
section
/-! DEFINITION. The statements for the provers. Each docstring says which rule of spec/ it formalises, or that it rests on
the model's own choice and which log entry says so. -/

open Sys2Proof Sys2Proof.Machine

/-! ### Reset -/

/-- R29: the reset values, register by register, byte by byte, and the derived flags after reset. -/
def Obligations.ResetStateHasTheResetValues : Prop :=
  State.reset.st = .idle ∧ State.reset.status = .none ∧ State.reset.expHdr = none ∧
    State.reset.hdr = none ∧ State.reset.len = none ∧ State.reset.cnt = none ∧ State.reset.sum = none ∧
    State.reset.outLen = none ∧ (∀ i, Memory.lookup State.reset.buf i = none) ∧
    (∀ k : Fin 9, State.reset.fld[k] = none) ∧ (∀ j : Fin 7, State.reset.val[j] = none) ∧
    State.reset.busy = false ∧ State.reset.isDone = false ∧ State.reset.payValid = false ∧
    State.reset.fldValid = false ∧ State.reset.uStatus = .none ∧ State.reset.tStatus = .none ∧
    State.reset.req = none

/-- R230: `RESET` in any state, and the answer to the request it abandons is not delivered to the block: the step that
takes that answer changes nothing but the count of such answers (the acts of a schedule are the model's, log 3; the count,
log 8). -/
def Obligations.ResetEventClearsEveryState : Prop :=
  ∀ s : State, ∃ t, exec .reset s = .next t ∧ t.st = .idle ∧ t.status = .none ∧ t.expHdr = none ∧ t.hdr = none ∧
    t.len = none ∧ t.cnt = none ∧ t.sum = none ∧ t.outLen = none ∧ (∀ i, Memory.lookup t.buf i = none) ∧
    (∀ k : Fin 9, t.fld[k] = none) ∧ (∀ j : Fin 7, t.val[j] = none) ∧ t.req = none ∧ t.rsp = none ∧
    (s.req ≠ none → s.rsp = none → ∀ a rest,
      step { t with schedule := .lateAnswer a :: rest } = .next { t with abandoned := s.abandoned, schedule := rest })

/-- R231 with the model's own account of the bytes an abandoned read takes (log 8): nothing of the Transport moves but the
wire, which loses a free number of bytes from 0 to the number asked, some of them perhaps only when they arrive. That the
parameters, what the last call returned, `sextOut` and the schedule stand is the model's choice (log 29). -/
def Obligations.ResetEventLeavesTheTransport : Prop :=
  ∀ s : State, ∃ t, exec .reset s = .next t ∧ t.cfg = s.cfg ∧ t.handle = s.handle ∧ t.vmin = s.vmin ∧
    t.sent = s.sent ∧ t.tret = s.tret ∧ t.sextOut = s.sextOut ∧ t.schedule = s.schedule ∧
    ((s.req = none ∨ s.rsp ≠ none) → t.wire = s.wire ∧ t.debt = s.debt ∧ t.abandoned = s.abandoned ∧ t.tick = s.tick) ∧
    ∀ n, s.req = some n → s.rsp = none →
      ∃ k ≤ n, t.wire = s.wire.drop k ∧ t.debt = s.debt + (k - s.wire.length) ∧ t.abandoned = s.abandoned + 1

/-! ### The frame reader -/

/-- R111: `START` accepted at rest, everything else standing but the minimum count; in every other stage it is not accepted
and nothing changes. That the read of 1 byte begins when its request is issued, and sets the count then, is the model's
reading of R92 (log 21), on an open handle only (log 23). -/
def Obligations.StartBeginsAnInvocation : Prop :=
  ∀ (e : Byte) (s : State),
    (s.st = .idle ∨ s.st = .done → exec (.start e) s = .next { s with
      expHdr := some e, hdr := none, len := none, cnt := none, sum := none, outLen := none, buf := []
      fld := Vector.replicate 9 none, val := Vector.replicate 7 none, status := .none, st := .awaitHeader
      req := some 1, rsp := none, vmin := if s.handle = none then s.vmin else .count 1 }) ∧
    (s.st ≠ .idle → s.st ≠ .done → exec (.start e) s = .next s)

/-- R241: `START` while busy changes no state, as an operation and as a command taken by a step; that the command is then
dropped is the model's choice (log 10). A step takes it unless the block's turn is an unshared one: an internal stage (R118),
or a request that the reference Transport answers at once (R100). -/
def Obligations.StartWhileBusyChangesNothing : Prop :=
  ∀ (e : Byte) (s : State), s.busy = true →
    exec (.start e) s = .next s ∧
    ∀ rest, s.unshared = false → s.schedule = .cmd (startWord e) :: rest → step s = .next { s with schedule := rest }

/-- R112: stage 1 on each of the three answers. That the next read begins when its request is issued, and sets the minimum
count then, is the model's reading of R92 (log 21), on an open handle only (log 23). -/
def Obligations.AwaitHeaderTakesItsAnswer : Prop :=
  ∀ s : State, s.st = .awaitHeader →
    (∀ b, exec (.awaitHeader (.ok [b])) s =
      .next { s with
        hdr := some b, sum := some b, st := .awaitLength, req := some 1, rsp := none
        vmin := if s.handle = none then s.vmin else .count 1 }) ∧
    exec (.awaitHeader .shortRead) s =
      .next { s with status := .failed .timeout, st := .done, req := none, rsp := none } ∧
    exec (.awaitHeader .unavailable) s =
      .next { s with status := .failed .noDevice, st := .done, req := none, rsp := none }

/-- R113: stage 2 on each answer, the length byte tested at 3. That the next read begins when its request is issued, and sets
the minimum count then, is the model's reading of R92 (log 21), on an open handle only (log 23). -/
def Obligations.AwaitLengthTakesItsAnswer : Prop :=
  ∀ (s : State) (sm : Byte), s.st = .awaitLength → s.sum = some sm →
    (∀ b : Byte, 3 ≤ b.toNat → exec (.awaitLength (.ok [b])) s =
      .next { s with
        len := some b, sum := some (sm + b), cnt := some (b - 2), st := .awaitPayload
        req := some (b.toNat - 2), rsp := none, vmin := if s.handle = none then s.vmin else .count (b.toNat - 2) }) ∧
    (∀ b : Byte, b.toNat < 3 → exec (.awaitLength (.ok [b])) s =
      .next { s with
        len := some b, sum := some (sm + b), status := .failed .malformedPayload, st := .done
        req := none, rsp := none }) ∧
    (∀ a, a = .shortRead ∨ a = .unavailable → exec (.awaitLength a) s =
      .next { s with status := .failed .timeout, st := .done, req := none, rsp := none })

/-- R114: stage 3 stores the whole body at offset 0, adds it to the sum, and leaves every other byte; a failed answer
leaves the buffer. -/
def Obligations.AwaitPayloadStoresTheBody : Prop :=
  ∀ (s : State) (c sm : Byte), s.st = .awaitPayload → s.cnt = some c → s.sum = some sm → c.toNat ≤ 253 →
    (∀ bs : List Byte, bs.length = c.toNat → ∃ t, exec (.awaitPayload (.ok bs)) s = .next t ∧
      t = { s with buf := t.buf, sum := some (sm + sum8 bs), st := .validate, req := none, rsp := none } ∧
      (∀ i (h : i < bs.length), Memory.readByte t.buf i = .ok bs[i]) ∧
      ∀ i, bs.length ≤ i → Memory.readByte t.buf i = Memory.readByte s.buf i) ∧
    (∀ a, a = .shortRead ∨ a = .unavailable → exec (.awaitPayload a) s =
      .next { s with status := .failed .timeout, st := .done, req := none, rsp := none })

/-- R92, 93_implementation_defined.md U17, log 20: an `Ok` answer of another length than asked is refused in every
waiting stage, and on channel `rd_rsp`. -/
def Obligations.WrongAnswerLengthIsRefused : Prop :=
  (∀ (s : State) (bs : List Byte), bs.length ≠ 1 →
    (s.st = .awaitHeader → exec (.awaitHeader (.ok bs)) s = .refused .answerLength) ∧
    (s.st = .awaitLength → exec (.awaitLength (.ok bs)) s = .refused .answerLength)) ∧
  (∀ (s : State) (c : Byte) (bs : List Byte), s.st = .awaitPayload → s.cnt = some c → bs.length ≠ c.toNat →
    exec (.awaitPayload (.ok bs)) s = .refused .answerLength) ∧
  ∀ (s : State) (n : Nat) (a : Answer) (rest : List Event), s.cfg.transport = .oracle → s.inside = false →
    s.req = some n → s.rsp = none → a.fits n = false → s.schedule = .answer a :: rest → step s = .refused .answerLength

/-- R115: stage 4 tests the residual. -/
def Obligations.ValidateTestsTheResidual : Prop :=
  ∀ (s : State) (sm : Byte), s.st = .validate → s.sum = some sm →
    (sm = 0 → exec .validate s = .next { s with st := .headerCheck }) ∧
    (sm ≠ 0 → exec .validate s = .next { s with status := .failed .checksumMismatch, st := .done })

/-- R116: stage 5 compares all 8 bits of the header. -/
def Obligations.HeaderCheckComparesTheHeader : Prop :=
  ∀ (s : State) (h e : Byte), s.st = .headerCheck → s.hdr = some h → s.expHdr = some e →
    (h = e → exec .headerCheck s = .next { s with st := .success }) ∧
    (h ≠ e → exec .headerCheck s = .next { s with status := .failed .unexpectedHeader, st := .done })

/-- R117, R19, R141: stage 6 publishes `len - 3` and `OK`, and the fields and values of a 27-byte payload, or none. -/
def Obligations.SuccessPublishesTheResult : Prop :=
  ∀ (s : State) (l : Byte), s.st = .success → s.len = some l → 3 ≤ l.toNat →
    (l ≠ 30 → exec .success s = .next { s with
      outLen := some (l - 3), status := .ok, st := .done
      fld := Vector.replicate 9 none, val := Vector.replicate 7 none }) ∧
    ∀ p v, l = 30 → Memory.read s.buf 0 27 = .ok p → unpackPayload p = some v →
      exec .success s = .next { s with
        outLen := some 27, status := .ok, st := .done, fld := v.map some, val := scaled s.cfg.scale v }

/-- R119 'There is no other transition', log 19: a stage operation outside its stage is refused. -/
def Obligations.StageOperationsRunOnlyInTheirStage : Prop :=
  ∀ (s : State) (a : Answer),
    (s.st ≠ .awaitHeader → exec (.awaitHeader a) s = .refused (.notSelected s.st)) ∧
    (s.st ≠ .awaitLength → exec (.awaitLength a) s = .refused (.notSelected s.st)) ∧
    (s.st ≠ .awaitPayload → exec (.awaitPayload a) s = .refused (.notSelected s.st)) ∧
    (s.st ≠ .validate → exec .validate s = .refused (.notSelected s.st)) ∧
    (s.st ≠ .headerCheck → exec .headerCheck s = .refused (.notSelected s.st)) ∧
    (s.st ≠ .success → exec .success s = .refused (.notSelected s.st))

/-- R12: a read of a register or byte that holds no value is a fault that names it, in every operation that reads one, the
bytes being read in rising order (the marker as an Option is the model's, log 2). -/
def Obligations.ReadOfNoValueIsAFault : Prop :=
  ∀ s : State,
    (s.st = .awaitLength → s.sum = none → ∀ b, exec (.awaitLength (.ok [b])) s = .fault (.noValue .sum)) ∧
    (s.st = .awaitPayload → s.cnt = none → ∀ bs, exec (.awaitPayload (.ok bs)) s = .fault (.noValue .cnt)) ∧
    (∀ (c : Byte) (bs : List Byte), s.st = .awaitPayload → s.cnt = some c → bs.length = c.toNat → s.sum = none →
      exec (.awaitPayload (.ok bs)) s = .fault (.noValue .sum)) ∧
    (s.st = .validate → s.sum = none → exec .validate s = .fault (.noValue .sum)) ∧
    (s.st = .headerCheck → s.hdr = none → exec .headerCheck s = .fault (.noValue .hdr)) ∧
    (s.st = .headerCheck → s.hdr ≠ none → s.expHdr = none → exec .headerCheck s = .fault (.noValue .expHdr)) ∧
    (s.st = .success → s.len = none → exec .success s = .fault (.noValue .len)) ∧
    (s.outLen = none → exec .unpack s = .fault (.noValue .outLen)) ∧
    (∀ i < 27, (∀ j < i, Memory.lookup s.buf j ≠ none) → Memory.lookup s.buf i = none →
      (s.outLen = some 27 → exec .unpack s = .fault (.noValue (.buf i))) ∧
      (s.st = .success → s.len = some 30 → exec .success s = .fault (.noValue (.buf i)))) ∧
    (∀ (k : Fin 9), ∀ i < 3, (∀ j < i, Memory.lookup s.buf (3 * k.val + j) ≠ none) →
      Memory.lookup s.buf (3 * k.val + i) = none → exec (Instr.extract k) s = .fault (.noValue (.buf (3 * k.val + i)))) ∧
    (∀ j : Fin 7, s.fld[j.val + 2]'(by omega) = none →
      exec (Instr.scale j) s = .fault (.noValue (.fld (j.val + 2))))

/-! ### The unpacker and the scaler -/

/-- R141: `UNPACK` as an operation of its own, on a 27-byte payload and on any other. -/
def Obligations.UnpackWritesAllFieldsOrNone : Prop :=
  ∀ (s : State) (n : Byte), s.outLen = some n →
    (n ≠ 27 → exec .unpack s = .next { s with fld := Vector.replicate 9 none, val := Vector.replicate 7 none }) ∧
    ∀ p v, n = 27 → Memory.read s.buf 0 27 = .ok p → unpackPayload p = some v →
      exec .unpack s = .next { s with fld := v.map some, val := scaled s.cfg.scale v }

/-- R141: the pure function is total: exactly the strings of 27 bytes decode, and field k is the sign extension of its
three bytes, low byte first. -/
def Obligations.UnpackPayloadIsTotalOnTwentySevenBytes : Prop :=
  ∀ p : List Byte,
    (p.length ≠ 27 → unpackPayload p = none) ∧
    (p.length = 27 → ∃ v, unpackPayload p = some v ∧ ∀ (k : Nat) (hk : k < 9) (b0 b1 b2 : Byte),
      p[3 * k]? = some b0 → p[3 * k + 1]? = some b1 → p[3 * k + 2]? = some b2 →
        v[k].toInt = Int.bmod ((b0.toNat : Int) + 256 * b1.toNat + 65536 * b2.toNat) 16777216)

/-- R142: `SEXT24` run as an operation (its result in the model's `sextOut`, log 18), its integer value, its range and the
top bits; and that it is a bijection onto -8388608..8388607 whose inverse is v mod 16777216. -/
def Obligations.SextTwentyFourSignExtends : Prop :=
  (∀ (raw : Raw) (s : State), ∃ w : Word, exec (.sext24 raw) s = .next { s with sextOut := w } ∧ w = sext24 raw ∧
    w.toInt = (if 8388608 ≤ raw.toNat then (raw.toNat : Int) - 16777216 else raw.toNat) ∧
    -8388608 ≤ w.toInt ∧ w.toInt ≤ 8388607 ∧
    (∀ i, 24 ≤ i → i < 32 → w.getLsbD i = raw.getLsbD 23) ∧ w.setWidth 24 = raw) ∧
  ∀ v : Int, -8388608 ≤ v → v ≤ 8388607 →
    ∃ raw : Raw, (sext24 raw).toInt = v ∧ (raw.toNat : Int) = v % 16777216 ∧
      ∀ raw' : Raw, (sext24 raw').toInt = v → raw' = raw

/-- R143 to R151: `EXTRACT k` for every k (extract0, extract1, extract2, extract3, extract4, extract5, extract6, extract7,
extract8) writes the sign extension of its three bytes to `fld[k]` and nothing else. -/
def Obligations.ExtractWritesItsField : Prop :=
  ∀ (k : Fin 9) (s : State) (b0 b1 b2 : Byte), Memory.readByte s.buf (3 * k.val) = .ok b0 →
    Memory.readByte s.buf (3 * k.val + 1) = .ok b1 → Memory.readByte s.buf (3 * k.val + 2) = .ok b2 →
    exec (Instr.extract k) s =
      .next { s with fld := s.fld.set k.val (some (BitVec.signExtend 32 (b2 ++ b1 ++ b0 : Raw))) }

/-- R152: a field and its value depend on their own three bytes and on nothing else. -/
def Obligations.UnpackLanesAreIndependent : Prop :=
  ∀ (s t s' t' : State) (k : Fin 9), s.outLen = some 27 → t.outLen = some 27 → s.cfg = t.cfg →
    exec .unpack s = .next s' → exec .unpack t = .next t' →
    (∀ i, 3 * k.val ≤ i → i ≤ 3 * k.val + 2 → Memory.readByte s.buf i = Memory.readByte t.buf i) →
    s'.fld[k] = t'.fld[k] ∧ ∀ j : Fin 7, j.val + 2 = k.val → s'.val[j] = t'.val[j]

/-- R172 to R178, R179: `SCALE k` for every k (scale2, scale3, scale4, scale5, scale6, scale7, scale8) writes
`scale_fn(k, fld[k])`, in the reading of `scale_fn` the machine has, to `val[k]` and nothing else. -/
def Obligations.ScaleWritesItsValue : Prop :=
  ∀ (j : Fin 7) (s : State) (v : Word), s.fld[j.val + 2]'(by omega) = some v →
    exec (Instr.scale j) s = .next { s with val := s.val.set j.val (some (scaleFn s.cfg.scale j v)) }

/-- R179: the default `scale_fn` is the exact quotient by the constant of R171, written out here for each k = j + 2 as
numerator and denominator, rounded to a nearest binary32: no finite binary32 is nearer, and where another is as near, the
fraction of the result is even. The layout of binary32 is the model's own knowledge (log 27). -/
def Obligations.ScaleExactIsTheNearestBinary32 : Prop :=
  ∀ (j : Fin 7) (num den : ℚ),
    (j, num, den) ∈ [((0 : Fin 7), (1000 : ℚ), (1 : ℚ)), (1, 1287001287, 10000), (2, 200, 1), (3, 200, 1), (4, 1000, 1),
      (5, 1000, 1), (6, 1000, 1)] →
    ∀ v : Word, -8388608 ≤ v.toInt → v.toInt ≤ 8388607 →
      ∃ q, f32Value (scaleFn .exact j v) = some q ∧ ∀ (y : F32) (r : ℚ), f32Value y = some r →
        |q - v.toInt * den / num| ≤ |r - v.toInt * den / num| ∧
        (|q - v.toInt * den / num| = |r - v.toInt * den / num| → r ≠ q → (scaleFn .exact j v).getLsbD 0 = false)

/-- R180: under the default and readings (ii) and (iii) the result is finite and normal or +0.0, +0.0 exactly for 0, with
the sign of the field (the layout of binary32: log 27). -/
def Obligations.ScaleResultsAreNormalOrPlusZero : Prop :=
  ∀ (r : ScaleReading) (j : Fin 7) (v : Word), r ≠ .unknown → -8388608 ≤ v.toInt → v.toInt ≤ 8388607 →
    (v = 0 → scaleFn r j v = 0) ∧
    (v ≠ 0 → ((scaleFn r j v).extractLsb' 23 8).toNat ≠ 0 ∧ ((scaleFn r j v).extractLsb' 23 8).toNat ≠ 255 ∧
      (scaleFn r j v).msb = v.msb)

/-- R181: under the default, `val · DIV[k]` is within one half of the field, the constants of R171 written out (the number a
pattern stands for: log 27). -/
def Obligations.ScaleExactRoundTrips : Prop :=
  ∀ (j : Fin 7) (num den : ℚ),
    (j, num, den) ∈ [((0 : Fin 7), (1000 : ℚ), (1 : ℚ)), (1, 1287001287, 10000), (2, 200, 1), (3, 200, 1), (4, 1000, 1),
      (5, 1000, 1), (6, 1000, 1)] →
    ∀ v : Word, -8388608 ≤ v.toInt → v.toInt ≤ 8388607 →
      ∃ q, f32Value (scaleFn .exact j v) = some q ∧ |q * num / den - v.toInt| < 1 / 2

/-- R154: `pack` and `unpack` are inverse to each other. -/
def Obligations.PackAndUnpackAreInverse : Prop :=
  (∀ v : Vector Word 9, (∀ k : Fin 9, -8388608 ≤ v[k].toInt ∧ v[k].toInt ≤ 8388607) →
    (pack v).length = 27 ∧ unpackPayload (pack v) = some v) ∧
  ∀ (p : List Byte) (v : Vector Word 9), p.length = 27 → unpackPayload p = some v → pack v = p

/-! ### The Transport and the wire -/

/-- R93: `T_OPEN` fails on an empty path and on a device that cannot be opened; else the handle is open. That the outcome is
an operand, and what an open leaves, are the model's choice (log 12; of an abandoned read, log 31). -/
def Obligations.TOpenGivesAHandleOrFails : Prop :=
  ∀ (path : List Byte) (opens : Bool) (s : State),
    (path ≠ [] → opens = true → exec (.tOpen path opens) s = .next { s with handle := some path, tret := .handle }) ∧
    (path = [] ∨ opens = false → exec (.tOpen path opens) s = .next { s with tret := .deviceUnavailable })

/-- R92: the answer to a read of `n` bytes: `Unavailable` without a handle, all `n` bytes when they are there, else
`ShortRead`, which takes some number of the bytes that arrived (a free value, log 9). With the block at rest the caller's
whole read sets the count first. The end of the block's outstanding read puts the answer on `rd_rsp` and leaves the minimum
count, which the request set when it was issued. The caller's own read, and where the block's begins, are the model's reading
(log 21). -/
def Obligations.TReadAnswersItsReader : Prop :=
  ∀ (n : Nat) (s : State), 1 ≤ n →
    (s.busy = true → s.req = some n → s.rsp = none →
      (s.handle = none → exec (.tRead n) s = .next { s with rsp := some .unavailable }) ∧
      (s.handle ≠ none → n ≤ s.wire.length → exec (.tRead n) s =
        .next { s with rsp := some (.ok (s.wire.take n)), wire := s.wire.drop n }) ∧
      (s.handle ≠ none → s.wire.length < n → ∃ t, exec (.tRead n) s = .next t ∧
        t = { s with rsp := some .shortRead, wire := t.wire, tick := t.tick } ∧
        ∃ k ≤ s.wire.length, t.wire = s.wire.drop k)) ∧
    (s.busy = false →
      (s.handle = none → exec (.tRead n) s = .next { s with tret := .read .unavailable }) ∧
      (s.handle ≠ none → n ≤ s.wire.length → exec (.tRead n) s =
        .next { s with tret := .read (.ok (s.wire.take n)), vmin := .count n, wire := s.wire.drop n }) ∧
      (s.handle ≠ none → s.wire.length < n → ∃ t, exec (.tRead n) s = .next t ∧
        t = { s with tret := .read .shortRead, vmin := .count n, wire := t.wire, tick := t.tick } ∧
        ∃ k ≤ s.wire.length, t.wire = s.wire.drop k))

/-- R100: the reference Transport is deterministic and answers at once: a short read empties the wire. -/
def Obligations.ReferenceTransportReads : Prop :=
  ∀ (n : Nat) (s : State), s.cfg.transport = .reference →
    transportRead n s =
      if s.handle = none then (.unavailable, s)
      else if n ≤ s.wire.length then (.ok (s.wire.take n), { s with vmin := .count n, wire := s.wire.drop n })
      else (.shortRead, { s with vmin := .count n, wire := [] })

/-- 93_implementation_defined.md U5 (R240) and U18 (R92), log 21 and 22: a second reader during an invocation and a read
of 0 bytes are refused. -/
def Obligations.SecondReaderAndZeroReadAreRefused : Prop :=
  (∀ (n : Nat) (s : State), n ≠ 0 → s.busy = true → (s.req ≠ some n ∨ s.rsp ≠ none) →
    exec (.tRead n) s = .refused .secondReader) ∧
  (∀ (n : Nat) (s : State) (rest : List Event), s.busy = true → s.unshared = false → s.schedule = .tRead n :: rest →
    step s = .refused .secondReader) ∧
  ∀ s : State, exec (.tRead 0) s = .refused .zeroRead

/-- R94: `T_WRITE` transmits in order and succeeds only if all the bytes were written. Without a handle it fails (log
13). -/
def Obligations.TWriteSucceedsOnlyWhole : Prop :=
  ∀ (bs : List Byte) (taken : Nat) (s : State),
    (s.handle = none → exec (.tWrite bs taken) s = .next { s with tret := .shortWrite }) ∧
    (s.handle ≠ none → bs.length ≤ taken →
      exec (.tWrite bs taken) s = .next { s with sent := s.sent ++ bs, tret := .wrote bs.length }) ∧
    (s.handle ≠ none → taken < bs.length →
      exec (.tWrite bs taken) s = .next { s with sent := s.sent ++ bs.take taken, tret := .shortWrite })

/-- R95: `T_RESET` sets the non-blocking default and changes nothing of the block; the next read of an open handle sets
the count to its own size again. That it does the same on a null handle is the model's reading (log 14); that it leaves what
an abandoned read may still take, the model's choice (log 31). -/
def Obligations.TResetReleasesTheCount : Prop :=
  ∀ s : State, exec .tReset s = .next { s with vmin := .nonBlocking, tret := .finished } ∧
    ∀ n, s.handle ≠ none →
      (transportRead n { s with vmin := .nonBlocking, tret := .finished }).1 = (transportRead n s).1 ∧
      (transportRead n { s with vmin := .nonBlocking, tret := .finished }).2 =
        { (transportRead n s).2 with tret := .finished }

/-- R96: `T_CLOSE` releases the handle, is the same on a null handle, and a later read is answered `Unavailable`. That it
leaves the wire and the minimum count as they are (log 12), and what an abandoned read may still take (log 31), is the model's
choice. -/
def Obligations.TCloseReleasesTheHandle : Prop :=
  ∀ s : State, exec .tClose s = .next { s with handle := none, tret := .finished } ∧
    ∀ n, (transportRead n { s with handle := none, tret := .finished }).1 = .unavailable

/-- R61, R97 with the model's account of a frame as an act of the device (log 15): the bytes join the wire in order, after
what is there, less those an abandoned read still takes (log 8). -/
def Obligations.FramesArriveOnTheWire : Prop :=
  ∀ (h l c : Byte) (data : List Byte) (s : State),
    exec (.frame h l data c) s = .next { s with
      wire := s.wire ++ ([h, l] ++ data ++ [c]).drop s.debt, debt := s.debt - (data.length + 3) } ∧
    exec (.telemetryReport data c) s = .next { s with
      wire := s.wire ++ ([0xAE, 0x1E] ++ data ++ [c]).drop s.debt, debt := s.debt - (data.length + 3) }

/-! ### Decoding and stepping -/

/-- R69, R61, R71, R74: words written out from the encodings: `START AE`, an opcode that is no command, the frame of
vector T4, the shortest frame T10, a telemetry report, length bytes 0, 1 and 2. -/
def Obligations.WrittenWordsDecode : Prop :=
  decodeCommand 0x01AE = .ok (.start 0xAE) ∧
  decodeCommand 0x02AE = .error (.notACommand 0x02) ∧
  decodeFrame [0xA5, 0x06, 0x01, 0x02, 0x03, 0x4F, 0x77] = .ok (.frame 0xA5 0x06 [0x01, 0x02, 0x03] 0x4F, [0x77]) ∧
  decodeFrame [0xAE, 0x03, 0x4F] = .ok (.frame 0xAE 0x03 [] 0x4F, []) ∧
  decodeFrame ([0xAE, 0x1E] ++ List.replicate 27 0 ++ [0x34]) = .ok (.telemetryReport (List.replicate 27 0) 0x34, []) ∧
  decodeFrame [0xAE, 0x00] = .error (.lengthBelowThree 0) ∧
  decodeFrame [0xAE, 0x01] = .error (.lengthBelowThree 1) ∧
  decodeFrame [0xFE, 0x02] = .error (.lengthBelowThree 2)

/-- R61, R69, R74: decoding an encoded well-formed operation gives it back, on the wire also with other bytes after it. That a
well-formed frame has another head than a telemetry report is the model's choice (log 17). -/
def Obligations.DecodeOfEncodeIsTheOperation : Prop :=
  ∀ (i : Instr) (x : Encoding), i.wf = true → encode i = some x →
    decode x = .ok i ∧ ∀ bs rest, x = .wire bs → decodeFrame (bs ++ rest) = .ok (i, rest)

/-- R61, R69, R71: every word that decodes is the encoding of one well-formed operation and of no other. The patterns of FRAME
and TELEMETRY_REPORT overlap (R74); that the head AE 1E is the report, and a well-formed frame has any other head, is the
model's choice (log 17). -/
def Obligations.EncodeOfDecodeIsTheWord : Prop :=
  ∀ (x : Encoding) (i : Instr), decode x = .ok i → i.wf = true ∧ encode i = some x

/-- R69, 93_implementation_defined.md part 3 (log 11): every other `op` is no command, and the step that meets one is
refused. -/
def Obligations.OtherOpcodesAreNoCommands : Prop :=
  ∀ (w : Half) (s : State) (rest : List Event), w.extractLsb' 8 8 ≠ 0x01 → s.unshared = false → s.schedule = .cmd w :: rest →
    decodeCommand w = .error (.notACommand (w.extractLsb' 8 8)) ∧ step s = .refused (.notACommand (w.extractLsb' 8 8))

/-- R69, R74, R25 and the model's schedule (log 3): unless the block's turn is an unshared one (an internal stage, R118, or a
request that the reference Transport answers at once, R100), a step takes the next act and runs what it decodes to or names.
A command; one frame; a frame with bytes after it, which stay as the next act; bytes that begin no frame (log 15); an accepted
answer, which goes on `rd_rsp` and leaves the wire as R48 says (a short read takes a free number of bytes, log 9); a late
answer (log 8); the caller's Transport calls, a read with the block at rest. `RESET` is taken in every stage (R230). The act
that a table word becomes (log 16) is run by the very next step. That the calls other than a read are taken in a waiting stage
too (log 30), and how `withFetchWord` brings a word to run (log 4), are the model's choice. -/
def Obligations.StepRunsTheDecodedOperation : Prop :=
  (∀ (s : State) (rest : List Event), s.unshared = false →
    (∀ w i, s.schedule = .cmd w :: rest → decodeCommand w = .ok i → step s = exec i { s with schedule := rest }) ∧
    (∀ bs i, s.schedule = .wire bs :: rest → decodeFrame bs = .ok (i, []) → step s = exec i { s with schedule := rest }) ∧
    (∀ bs i b more, s.schedule = .wire bs :: rest → decodeFrame bs = .ok (i, b :: more) →
      step s = exec i { s with schedule := .wire (b :: more) :: rest }) ∧
    (∀ bs err, s.schedule = .wire bs :: rest → decodeFrame bs = .error err →
      step s = .next { s with schedule := rest, wire := s.wire ++ bs.drop s.debt, debt := s.debt - bs.length }) ∧
    (∀ n, s.cfg.transport = .oracle → s.req = some n → s.rsp = none →
      (∀ bs, s.schedule = .answer (.ok bs) :: rest → bs.length = n → step s = .next { s with
        schedule := rest, rsp := some (.ok bs), wire := s.wire.drop n }) ∧
      (s.schedule = .answer .shortRead :: rest → ∃ k tick, k ≤ s.wire.length ∧ k ≤ n - 1 ∧ step s = .next { s with
        schedule := rest, rsp := some .shortRead, wire := s.wire.drop k, tick := tick }) ∧
      (s.schedule = .answer .unavailable :: rest →
        step s = .next { s with schedule := rest, rsp := some .unavailable })) ∧
    (∀ a n, s.schedule = .lateAnswer a :: rest → s.abandoned = n + 1 →
      step s = .next { s with schedule := rest, abandoned := n }) ∧
    (∀ path opens, s.schedule = .tOpen path opens :: rest → step s = exec (.tOpen path opens) { s with schedule := rest }) ∧
    (∀ n, s.busy = false → s.schedule = .tRead n :: rest → step s = exec (.tRead n) { s with schedule := rest }) ∧
    (∀ bs taken, s.schedule = .tWrite bs taken :: rest → step s = exec (.tWrite bs taken) { s with schedule := rest }) ∧
    (s.schedule = .tReset :: rest → step s = exec .tReset { s with schedule := rest }) ∧
    (s.schedule = .tClose :: rest → step s = exec .tClose { s with schedule := rest })) ∧
  (∀ (s : State) (rest : List Event), s.schedule = .rst :: rest → step s = exec .reset { s with schedule := rest }) ∧
  ∀ (s : State) (w : Nat) (i : Instr), s.unshared = false → decodeTableWord 16 w = some i →
    step (s.withFetchWord 16 w) = exec i s

/-- R74 'selected by', R10, R118 and the model's schedule (log 3): with the block's turn, a step runs the operation of the
stage: the three internal ones, a waiting one on its answer, or the reference Transport's read. In an internal stage, and
where the reference Transport answers at once (R100), it is the block's turn whatever act comes next, but for `RESET` (log
26), and the act stays. -/
def Obligations.StepRunsTheSelectedStage : Prop :=
  ∀ s t : State,
    (s.schedule = [] ∧ t = s) ∨ (s.schedule = .block :: t.schedule ∧ t = { s with schedule := t.schedule }) ∨
      (s.unshared = true ∧ t = s ∧ ∀ rest, s.schedule ≠ .block :: rest ∧ s.schedule ≠ .rst :: rest) →
    (s.st = .validate → step s = exec .validate t) ∧
    (s.st = .headerCheck → step s = exec .headerCheck t) ∧
    (s.st = .success → step s = exec .success t) ∧
    (∀ a, s.rsp = some a →
      (s.st = .awaitHeader → step s = exec (.awaitHeader a) t) ∧
      (s.st = .awaitLength → step s = exec (.awaitLength a) t) ∧
      (s.st = .awaitPayload → step s = exec (.awaitPayload a) t)) ∧
    (∀ n, s.waiting = true → s.rsp = none → s.req = some n → s.cfg.transport = .reference →
      step s = exec (.tRead n) t) ∧
    (s.st = .idle ∨ s.st = .done → step s = .next t)

/-- R91, R204 (c), R244: with the oracle, no answer and nothing from outside, a waiting block waits for ever. -/
def Obligations.WaitingBlockWaitsForEver : Prop :=
  ∀ (s : State) (n : Nat), s.waiting = true → s.cfg.transport = .oracle → s.rsp = none → s.schedule = [] →
    Host.Core.run core n s = .next s

/-! ### Whole-machine rules -/

/-- R119: an operation that reaches a next state either leaves `st` and `status` as they are or is one row of the
transition table, with the row's condition, status and request. -/
def Obligations.OnlyTheTableMovesTheStage : Prop :=
  ∀ (i : Instr) (s t : State), exec i s = .next t → (t.st = s.st ∧ t.status = s.status) ∨ Transition i s t

/-- R203, R201: in `Done` with a failure, only `START` and `RESET` change `status`. -/
def Obligations.FailureIsFinalForTheInvocation : Prop :=
  ∀ (i : Instr) (s t : State) (k : Failure), s.st = .done → s.status = .failed k → exec i s = .next t →
    t.status ≠ .failed k → (∃ e, i = .start e) ∨ i = .reset

/-- R14 to R19, R24: which operations write each register of the frame reader and the buffer. -/
def Obligations.RegistersHaveTheirOwnWriters : Prop :=
  ∀ (i : Instr) (s t : State), exec i s = .next t → (∀ e, i ≠ .start e) → i ≠ .reset →
    t.expHdr = s.expHdr ∧
    (t.hdr ≠ s.hdr → ∃ b, i = .awaitHeader (.ok [b])) ∧
    (t.len ≠ s.len → ∃ b, i = .awaitLength (.ok [b])) ∧
    (t.cnt ≠ s.cnt → ∃ b, i = .awaitLength (.ok [b]) ∧ 3 ≤ b.toNat) ∧
    (t.sum ≠ s.sum → ∃ bs, i = .awaitHeader (.ok bs) ∨ i = .awaitLength (.ok bs) ∨ i = .awaitPayload (.ok bs)) ∧
    (t.outLen ≠ s.outLen → i = .success) ∧
    ((∀ bs, i ≠ .awaitPayload (.ok bs)) → ∀ a, Memory.readByte t.buf a = Memory.readByte s.buf a)

/-- R22, R23: which operations write the fields and the values, and that an extraction or a scaling leaves every other
one. -/
def Obligations.FieldsHaveTheirOwnWriters : Prop :=
  ∀ (i : Instr) (s t : State), exec i s = .next t → (∀ e, i ≠ .start e) → i ≠ .reset → i ≠ .success → i ≠ .unpack →
    (∀ k : Fin 9, t.fld[k] ≠ s.fld[k] → i = Instr.extract k) ∧
    (∀ j : Fin 7, t.val[j] ≠ s.val[j] → i = Instr.scale j)

/-- R99, R231, R26 and the rules R92 to R96: the block's own operations leave the Transport alone, but for the minimum count of
a read they begin: handle, setting, wire, what was sent, what a call returned, the abandoned requests, and the machine's
parameters. That the three operations that issue a request set the count then is the model's reading of R92 and R27 (b) (log
21), on an open handle only (log 23). That `tOpen` and `tClose` leave the wire and the setting (log 12), that they and `tReset`
leave what an abandoned read may still take (log 31), and that `reset` leaves what a call returned, `sextOut`, the parameters
and the schedule (log 29), is the model's choice. -/
def Obligations.BlockOperationsLeaveTheTransport : Prop :=
  ∀ (i : Instr) (s t : State), exec i s = .next t →
    t.cfg = s.cfg ∧ t.schedule = s.schedule ∧
    ((∀ p o, i ≠ .tOpen p o) → i ≠ .tClose → t.handle = s.handle) ∧
    ((∀ bs n, i ≠ .tWrite bs n) → t.sent = s.sent) ∧
    ((∀ n, i ≠ .tRead n) → i ≠ .tReset → t.vmin = s.vmin ∨
      (((∃ e, i = .start e) ∨ (∃ b, i = .awaitHeader (.ok [b])) ∨ ∃ b, i = .awaitLength (.ok [b])) ∧
        s.handle ≠ none ∧ ∃ n, t.req = some n ∧ t.vmin = .count n)) ∧
    ((∀ n, i ≠ .tRead n) → (∀ h l d c, i ≠ .frame h l d c) → (∀ d c, i ≠ .telemetryReport d c) → i ≠ .reset →
      t.wire = s.wire ∧ t.debt = s.debt ∧ t.tick = s.tick) ∧
    ((∀ p o, i ≠ .tOpen p o) → (∀ n, i ≠ .tRead n) → (∀ bs n, i ≠ .tWrite bs n) → i ≠ .tReset → i ≠ .tClose →
      t.tret = s.tret) ∧
    (i ≠ .reset → t.abandoned = s.abandoned) ∧
    ((∀ raw, i ≠ .sext24 raw) → t.sextOut = s.sextOut)

/-- R40, R49: every operation keeps the buffer canonical and within offsets 0..252. -/
def Obligations.BufferStaysCanonical : Prop :=
  ∀ (i : Instr) (s t : State), s.buf.wf = true → exec i s = .next t → t.buf.wf = true

/-- The state after reset meets the invariant (R29; the environment's part at the values of log 5). -/
def Obligations.ResetStateMeetsTheInvariant : Prop := State.reset.Inv

/-- R12 to R24, R49, R92: every step keeps the invariant, from every state that meets it. -/
def Obligations.EveryStepKeepsTheInvariant : Prop :=
  ∀ s t : State, s.Inv → step s = .next t → t.Inv

/-- R12 'No rule of this spec reads a register that can be ⊥ at that point': from a state that meets the invariant no step
is a fault, and the block's own step is never refused either. -/
def Obligations.NoRuleReadsNoValue : Prop :=
  ∀ s : State, s.Inv → (∀ f, step s ≠ .fault f) ∧ (s.schedule = [] → ∃ t, step s = .next t)

/-! ### Flags and outputs -/

/-- R21: the derived flags, each with its definition, and the codes of R20. -/
def Obligations.DerivedFlagsFollowTheirDefinitions : Prop :=
  ∀ s : State,
    (s.busy = true ↔ s.st ≠ .idle ∧ s.st ≠ .done) ∧ (s.isDone = true ↔ s.st = .done) ∧
    (s.payValid = true ↔ s.st = .done ∧ s.status = .ok) ∧
    (s.fldValid = true ↔ s.payValid = true ∧ s.outLen = some 27) ∧
    (s.payValid = false → s.uStatus = .none) ∧ (s.fldValid = true → s.uStatus = .ok) ∧
    (s.payValid = true → s.fldValid = false → s.uStatus = .failed .malformedPayload) ∧
    (s.status ≠ .ok → s.tStatus = s.status) ∧ (s.status = .ok → s.tStatus = s.uStatus)

/-- R20, R68: the seven statuses have seven codes, 0 to 6, and code 7 stands for none. -/
def Obligations.StatusCodesAreDistinct : Prop :=
  (∀ x : Status, Status.ofCode x.code = some x) ∧ (∀ (c : BitVec 3) (x : Status), Status.ofCode c = some x → x.code = c) ∧
    Status.ofCode 7 = none ∧ Status.code .none = 0 ∧ Status.code .ok = 1 ∧ Status.code (.failed .noDevice) = 2 ∧
    Status.code (.failed .timeout) = 3 ∧ Status.code (.failed .checksumMismatch) = 4 ∧
    Status.code (.failed .unexpectedHeader) = 5 ∧ Status.code (.failed .malformedPayload) = 6

/-- R197: when `status` is not `OK`, every output that could carry data holds no value: reading it is a fault. -/
def Obligations.OutputsHoldNoValueAfterAFailure : Prop :=
  ∀ s : State, s.status ≠ .ok →
    s.payValid = false ∧ s.fldValid = false ∧ s.readOutLen = .error (.noValue .outLen) ∧
    s.readPayload = .error (.noValue .payload) ∧
    ∀ j : Fin 7, s.readFld j = .error (.noValue (.fld (j.val + 2))) ∧
      s.readVal j = .error (.noValue (.val (j.val + 2)))

/-! ### Frames, sums, whole invocations -/

/-- R122: byte sums and their negation. -/
def Obligations.ByteSumLaws : Prop :=
  (∀ xs ys : List Byte, xs.Perm ys → sum8 xs = sum8 ys) ∧
  (∀ xs : List Byte, (sum8 xs).toNat = (xs.map BitVec.toNat).sum % 256) ∧
  (∀ x : Byte, (neg8 x).toNat = (256 - x.toNat) % 256 ∧ x + neg8 x = 0) ∧ neg8 0 = 0 ∧ neg8 0x80 = 0x80

/-- R64: the residual form and the negated-sum form are the same condition. -/
def Obligations.ChecksumFormsAreTheSame : Prop :=
  ∀ (h l c : Byte) (data : List Byte),
    sum8 (frameBytes h l data c) = 0 ↔ c = neg8 (sum8 ([h, l] ++ data))

/-- R72: the frame constructor's four properties. -/
def Obligations.MadeFramesAreOk : Prop :=
  ∀ (h : Byte) (d : List Byte), d.length ≤ 252 →
    wellSized (mkFrame h d) = true ∧ checksumOk (mkFrame h d) = true ∧ frameOk h (mkFrame h d) = true ∧
      payloadOf (mkFrame h d) = d

/-- R128: the checksum depends on the multiset of the bytes only, and misses two changes that cancel. -/
def Obligations.ChecksumMissesReorderings : Prop :=
  (∀ f g : List Byte, f.Perm g → checksumOk f = checksumOk g) ∧
  ∀ (f : List Byte) (i j : Nat) (x y d : Byte), i ≠ j → f[i]? = some x → f[j]? = some y →
    checksumOk ((f.set i (x + d)).set j (y - d)) = checksumOk f

/-- R121, first form, with R91 and the model's schedule (log 3): from rest, the ten acts of an invocation with any answers
of the sizes asked for end in `Done`, showing `read_frame(e, a1, a2, a3)`; the wire has lost the bytes that R120 counts, and
after a `Timeout` perhaps a free number more, fewer than were asked for last (log 9; that the oracle's bytes need not be the
ones that the wire loses is the model's choice, log 23). -/
def Obligations.InvocationUnderTheOracle : Prop :=
  ∀ (s : State) (e : Byte) (a1 a2 a3 : Answer) (r : ReadResult), s.busy = false → s.cfg.transport = .oracle →
    s.schedule = oracleSchedule e a1 a2 a3 → readFrame e a1 a2 a3 = some r →
    ∃ t, Host.Core.run core 10 s = .next t ∧ t.Shows r ∧ t.schedule = [] ∧
      ∃ k < lastAsked a1 a2, t.wire = s.wire.drop (okBytes a1 a2 a3 + k) ∧ (r ≠ .failed .timeout → k = 0)

/-- R121, second form, with R100 and the model's schedule (log 3): from rest with the reference Transport, ten steps, that
of `START e` the first, end in `Done`, showing `read_frame_w(e, w)`, with the wire it says left. -/
def Obligations.InvocationUnderTheReferenceTransport : Prop :=
  ∀ (s : State) (e : Byte), s.busy = false → s.cfg.transport = .reference → s.schedule = [.cmd (startWord e)] →
    ∃ t, Host.Core.run core 10 s = .next t ∧ t.Shows (readFrameW e s.handle.isSome s.wire).1 ∧
      t.wire = (readFrameW e s.handle.isSome s.wire).2 ∧ t.schedule = []

/-- R123: a valid frame is accepted with its payload, under the oracle with the answers that carry it and under the
reference Transport with the wire that begins with it (the acts of an invocation are the model's, log 3). -/
def Obligations.ValidFramesAreAccepted : Prop :=
  ∀ (s : State) (e : Byte) (d rest : List Byte), d.length ≤ 252 → s.busy = false →
    (s.cfg.transport = .oracle →
      s.schedule = oracleSchedule e (.ok [e]) (.ok [BitVec.ofNat 8 (d.length + 3)]) (.ok ((mkFrame e d).drop 2)) →
      ∃ t, Host.Core.run core 10 s = .next t ∧ t.Shows (.ok (BitVec.ofNat 8 d.length) d) ∧
        t.wire = s.wire.drop (d.length + 3)) ∧
    (s.cfg.transport = .reference → s.handle ≠ none → s.wire = mkFrame e d ++ rest →
      s.schedule = [.cmd (startWord e)] →
      ∃ t, Host.Core.run core 10 s = .next t ∧ t.Shows (.ok (BitVec.ofNat 8 d.length) d) ∧ t.wire = rest)

/-- R124, first case: one changed byte that is not the length byte is a checksum mismatch, and the whole frame is consumed:
in `read_frame_w`, in a run under the oracle with the answers that carry the changed frame, and in one under the reference
Transport with the wire that begins with it (the acts of an invocation are the model's, log 3). -/
def Obligations.OneCorruptedByteIsAMismatch : Prop :=
  ∀ (s : State) (e x : Byte) (f g rest : List Byte) (i : Nat), frameOk e f = true → i < f.length → i ≠ 1 → f[i]? ≠ some x →
    g = f.set i x →
    readFrameW e true (g ++ rest) = (.failed .checksumMismatch, rest) ∧
    (s.busy = false → s.cfg.transport = .oracle →
      s.schedule = oracleSchedule e (.ok (g.take 1)) (.ok ((g.drop 1).take 1)) (.ok (g.drop 2)) →
      ∃ t, Host.Core.run core 10 s = .next t ∧ t.Shows (.failed .checksumMismatch) ∧ t.wire = s.wire.drop f.length) ∧
    (s.busy = false → s.cfg.transport = .reference → s.handle ≠ none → s.wire = g ++ rest →
      s.schedule = [.cmd (startWord e)] →
      ∃ t, Host.Core.run core 10 s = .next t ∧ t.Shows (.failed .checksumMismatch) ∧ t.wire = rest)

/-- R125: a well-sized, checksum-valid frame of another header is `UnexpectedHeader`, under the oracle with the answers that
carry it and under the reference Transport with the wire that begins with it (the acts of an invocation are the model's,
log 3). -/
def Obligations.AnotherHeaderIsUnexpected : Prop :=
  ∀ (s : State) (e : Byte) (f rest : List Byte), wellSized f = true → checksumOk f = true → f.head? ≠ some e →
    s.busy = false →
    (s.cfg.transport = .oracle →
      s.schedule = oracleSchedule e (.ok (f.take 1)) (.ok ((f.drop 1).take 1)) (.ok (f.drop 2)) →
      ∃ t, Host.Core.run core 10 s = .next t ∧ t.Shows (.failed .unexpectedHeader) ∧ t.wire = s.wire.drop f.length) ∧
    (s.cfg.transport = .reference → s.handle ≠ none → s.wire = f ++ rest → s.schedule = [.cmd (startWord e)] →
      ∃ t, Host.Core.run core 10 s = .next t ∧ t.Shows (.failed .unexpectedHeader) ∧ t.wire = rest)
end

