-- ==== Sys2Proof/Laws/Decode.lean ====
section
/-! SUPPORT. What the decoder reads from the bytes the encoder writes (spec/30_encoding.md R61, R69). -/

namespace Sys2Proof

/-- The bits of the command word of `START e` (R69): `e` below 0x01. -/
theorem startWord_getLsbD (e : Byte) (i : Nat) :
    (startWord e).getLsbD i = if i < 8 then e.getLsbD i else Config.startOp.getLsbD (i - 8) :=
  BitVec.getLsbD_append

theorem startWord_op (e : Byte) : (startWord e).extractLsb' 8 8 = Config.startOp := by
  apply BitVec.eq_of_getLsbD_eq
  intro i hi
  rw [BitVec.getLsbD_extractLsb', startWord_getLsbD, if_neg (by omega), Nat.add_sub_cancel_left]
  simp [hi]

theorem startWord_arg (e : Byte) : (startWord e).extractLsb' 0 8 = e := by
  apply BitVec.eq_of_getLsbD_eq
  intro i hi
  rw [BitVec.getLsbD_extractLsb', startWord_getLsbD, if_pos (by omega), Nat.zero_add]
  simp [hi]

@[simp] theorem decodeCommand_startWord (e : Byte) : decodeCommand (startWord e) = .ok (.start e) := by
  simp [decodeCommand, startWord_op, startWord_arg]

/-- A command is `START` and its word is the one `START` has. -/
theorem decodeCommand_eq_ok {w : Half} {i : Instr} :
    decodeCommand w = .ok i ↔ w.extractLsb' 8 8 = Config.startOp ∧ i = .start (w.extractLsb' 0 8) := by
  simp only [decodeCommand]
  split
  · simp_all [eq_comm]
  · simp_all

/-- A frame of the length its second byte says is read back, with the bytes after it. -/
theorem decodeFrame_frameBytes {h l : Byte} {data : List Byte} (c : Byte) (rest : List Byte)
    (hl : Config.lenMin ≤ l.toNat) (hd : data.length + 3 = l.toNat) :
    decodeFrame (frameBytes h l data c ++ rest) = .ok (frameOf h l data c, rest) := by
  have hn : l.toNat - 3 = data.length := by omega
  have hlt : ¬l.toNat < Config.lenMin := by omega
  simp [frameBytes, decodeFrame, hlt, hn]

/-- What a decoded frame's bytes were. -/
theorem decodeFrame_eq_ok {bs rest : List Byte} {i : Instr} (h : decodeFrame bs = .ok (i, rest)) :
    ∃ hd l data c, bs = frameBytes hd l data c ++ rest ∧ Config.lenMin ≤ l.toNat ∧ data.length + 3 = l.toNat ∧
      i = frameOf hd l data c := by
  unfold decodeFrame at h
  split at h
  · rename_i hd l tl
    split at h
    · cases h
    · rename_i hlt
      split at h
      · rename_i c after hc
        cases h
        have hlen : l.toNat - 3 < tl.length := by
          by_contra hle
          rw [List.drop_eq_nil_of_le (by omega)] at hc
          cases hc
        have h3 : Config.lenMin = 3 := rfl
        refine ⟨hd, l, _, c, ?_, by omega, ?_, rfl⟩
        · simp only [frameBytes, List.cons_append, List.append_assoc, List.nil_append, ← hc, List.take_append_drop]
        · rw [List.length_take]
          omega
      · cases h
  · cases h

end Sys2Proof
end

