-- ==== Sys2Proof/Laws/Float.lean ====
section
/-! SUPPORT. What the rounding functions do: the exponent brackets the number, and the whole-number rounding is nearest with
ties to even (spec/43_scaling.md R179, R180). -/

namespace Sys2Proof.Machine

/-- The rational a fraction stands for. -/
def Frac.val (x : Frac) : ℚ := (x.num : ℚ) / (x.den : ℚ)

/-- The rational a rounded number stands for. -/
def Scaled.val (x : Scaled) : ℚ := (x.man : ℚ) * (2 : ℚ) ^ x.exp

/-- A power of two with its exponent split by sign. -/
theorem two_zpow_eq (e : ℤ) : (2 : ℚ) ^ e = 2 ^ e.toNat / 2 ^ (-e).toNat := by
  rcases Int.le_total 0 e with h | h
  · obtain ⟨n, rfl⟩ := Int.eq_ofNat_of_zero_le h
    simp
  · obtain ⟨n, hn⟩ := Int.eq_ofNat_of_zero_le (Int.neg_nonneg_of_nonpos h)
    obtain rfl : e = -(n : ℤ) := by omega
    simp

/-- Rounding to a whole number is to a nearest one, and to an even one in a tie. -/
theorem divEven_near {a b : Nat} (hb : 0 < b) :
    |(divEven a b : ℚ) - (a : ℚ) / b| ≤ 1 / 2 ∧
      (|(divEven a b : ℚ) - (a : ℚ) / b| = 1 / 2 → divEven a b % 2 = 0) := by
  have hb' : (0 : ℚ) < b := by exact_mod_cast hb
  have hq : (a : ℚ) / b = (a / b : ℕ) + ((a % b : ℕ) : ℚ) / b := by
    rw [div_eq_iff hb'.ne', add_mul, div_mul_cancel₀ _ hb'.ne']
    exact_mod_cast (by rw [Nat.mul_comm]; exact (Nat.div_add_mod a b).symm : a = a / b * b + a % b)
  have hr : (0 : ℚ) ≤ ((a % b : ℕ) : ℚ) / b := by positivity
  unfold divEven
  simp only
  split
  · rename_i h
    have h' : ((a % b : ℕ) : ℚ) / b < 1 / 2 := by
      rw [div_lt_div_iff₀ hb' (by norm_num)]
      have : ((2 * (a % b) : ℕ) : ℚ) < b := by exact_mod_cast h
      push_cast at this ⊢
      linarith
    rw [hq, abs_sub_comm, add_sub_cancel_left, abs_of_nonneg hr]
    exact ⟨h'.le, fun e => absurd e h'.ne⟩
  · rename_i h1
    split
    · rename_i h
      have h' : 1 / 2 < ((a % b : ℕ) : ℚ) / b := by
        rw [div_lt_div_iff₀ (by norm_num) hb']
        have : (b : ℚ) < ((2 * (a % b) : ℕ) : ℚ) := by exact_mod_cast h
        push_cast at this ⊢
        linarith
      have h2 : ((a % b : ℕ) : ℚ) / b < 1 := by
        rw [div_lt_one hb']
        exact_mod_cast Nat.mod_lt a hb
      have h3 : |((a / b + 1 : ℕ) : ℚ) - (a : ℚ) / b| = 1 - ((a % b : ℕ) : ℚ) / b := by
        rw [hq, abs_of_nonneg (by push_cast; linarith)]
        push_cast
        ring
      rw [h3]
      exact ⟨by linarith, fun e => by linarith⟩
    · rename_i h
      have h' : ((a % b : ℕ) : ℚ) / b = 1 / 2 := by
        rw [div_eq_div_iff hb'.ne' (by norm_num)]
        have : ((2 * (a % b) : ℕ) : ℚ) = b := by exact_mod_cast (by omega : 2 * (a % b) = b)
        push_cast at this ⊢
        linarith
      split
      · rename_i he
        rw [hq, h', abs_sub_comm, add_sub_cancel_left]
        exact ⟨by norm_num, fun _ => he⟩
      · rename_i he
        have h3 : |((a / b + 1 : ℕ) : ℚ) - (a : ℚ) / b| = 1 / 2 := by
          rw [hq, h']
          push_cast
          rw [show (a / b : ℕ) + 1 - ((a / b : ℕ) + 1 / 2 : ℚ) = 1 / 2 by ring]
          norm_num
        exact ⟨h3.le, fun _ => by omega⟩

/-- `x / 2^e` rounded to a whole number. -/
theorem Frac.atExp_near {x : Frac} (hd : 0 < x.den) (e : ℤ) :
    |(x.atExp e : ℚ) - x.val / 2 ^ e| ≤ 1 / 2 ∧ (|(x.atExp e : ℚ) - x.val / 2 ^ e| = 1 / 2 → x.atExp e % 2 = 0) := by
  have h := divEven_near (a := x.num * 2 ^ (-e).toNat) (b := x.den * 2 ^ e.toNat) (by positivity)
  have hx : ((x.num * 2 ^ (-e).toNat : ℕ) : ℚ) / ((x.den * 2 ^ e.toNat : ℕ) : ℚ) = x.val / 2 ^ e := by
    rw [two_zpow_eq, Frac.val]
    push_cast
    field_simp
  rw [hx] at h
  exact h

/-- The comparison that the exponent is chosen by, in rationals. -/
theorem Frac.le_iff {x : Frac} (hd : 0 < x.den) (e : ℤ) (p : Nat) :
    x.den * 2 ^ e.toNat * 2 ^ p ≤ x.num * 2 ^ (-e).toNat ↔ (2 : ℚ) ^ (p : ℤ) ≤ x.val / 2 ^ e := by
  have hd' : (0 : ℚ) < x.den := by exact_mod_cast hd
  rw [two_zpow_eq e, Frac.val, div_div_eq_mul_div, le_div_iff₀ (by positivity), zpow_natCast, div_mul_eq_mul_div,
    le_div_iff₀ hd', ← Nat.cast_le (α := ℚ)]
  push_cast
  constructor <;> intro h <;> linarith

/-- The exponent brackets the number: a significand of exactly `p` bits (R180). -/
theorem Frac.expFor_bounds {x : Frac} {p : Nat} (hn : 0 < x.num) (hd : 0 < x.den) :
    (2 : ℚ) ^ ((p : ℤ) - 1) ≤ x.val / 2 ^ x.expFor p ∧ x.val / 2 ^ x.expFor p < (2 : ℚ) ^ (p : ℤ) := by
  have hd' : (0 : ℚ) < x.den := by exact_mod_cast hd
  have hn' : (0 : ℚ) < x.num := by exact_mod_cast hn
  have a1 : (2 : ℚ) ^ (Nat.log2 x.num) ≤ x.num := by exact_mod_cast Nat.log2_self_le hn.ne'
  have a2 : (x.num : ℚ) < 2 ^ (Nat.log2 x.num + 1) := by exact_mod_cast Nat.lt_log2_self (n := x.num)
  have b1 : (2 : ℚ) ^ (Nat.log2 x.den) ≤ x.den := by exact_mod_cast Nat.log2_self_le hd.ne'
  have b2 : (x.den : ℚ) < 2 ^ (Nat.log2 x.den + 1) := by exact_mod_cast Nat.lt_log2_self (n := x.den)
  have two : (2 : ℚ) ≠ 0 := by norm_num
  have lo : (2 : ℚ) ^ ((Nat.log2 x.num : ℤ) - (Nat.log2 x.den : ℤ) - 1) ≤ x.val := by
    rw [Frac.val, le_div_iff₀ hd']
    calc (2 : ℚ) ^ ((Nat.log2 x.num : ℤ) - (Nat.log2 x.den : ℤ) - 1) * x.den
        ≤ 2 ^ ((Nat.log2 x.num : ℤ) - (Nat.log2 x.den : ℤ) - 1) * 2 ^ (Nat.log2 x.den + 1) := by gcongr
      _ = 2 ^ (Nat.log2 x.num) := by
          rw [← zpow_natCast, ← zpow_natCast, ← zpow_add₀ two]
          congr 1
          push_cast
          ring
      _ ≤ x.num := a1
  have hi : x.val < (2 : ℚ) ^ ((Nat.log2 x.num : ℤ) - (Nat.log2 x.den : ℤ) + 1) := by
    rw [Frac.val, div_lt_iff₀ hd']
    calc (x.num : ℚ) < 2 ^ (Nat.log2 x.num + 1) := a2
      _ = 2 ^ ((Nat.log2 x.num : ℤ) - (Nat.log2 x.den : ℤ) + 1) * 2 ^ (Nat.log2 x.den) := by
          rw [← zpow_natCast, ← zpow_natCast, ← zpow_add₀ two]
          congr 1
          push_cast
          ring
      _ ≤ 2 ^ ((Nat.log2 x.num : ℤ) - (Nat.log2 x.den : ℤ) + 1) * x.den := by gcongr
  unfold Frac.expFor
  simp only
  split
  · rename_i h
    rw [Frac.le_iff hd] at h
    constructor
    · rw [le_div_iff₀ (by positivity), ← zpow_add₀ two] at h ⊢
      refine le_of_eq_of_le (congrArg _ ?_) h
      omega
    · rw [div_lt_iff₀ (by positivity), ← zpow_add₀ two]
      refine lt_of_lt_of_eq hi (congrArg _ ?_)
      omega
  · rename_i h
    rw [Frac.le_iff hd, not_le] at h
    refine ⟨?_, h⟩
    rw [le_div_iff₀ (by positivity), ← zpow_add₀ two]
    refine le_of_eq_of_le (congrArg _ ?_) lo
    omega

/-- Everything a rounding gives: a significand of `p` bits, and a number within half a unit of the last place of `x`. -/
theorem Frac.round_spec {x : Frac} {p : Nat} (hp : 1 ≤ p) (hn : 0 < x.num) (hd : 0 < x.den) :
    2 ^ (p - 1) ≤ (x.round p).man ∧ (x.round p).man < 2 ^ p ∧
      (x.round p).val = x.atExp (x.expFor p) * (2 : ℚ) ^ x.expFor p ∧
      |(x.round p).val - x.val| ≤ (2 : ℚ) ^ x.expFor p / 2 := by
  obtain ⟨lo, hi⟩ := Frac.expFor_bounds (p := p) hn hd
  obtain ⟨near, -⟩ := Frac.atExp_near hd (x.expFor p)
  have hpos : (0 : ℚ) < 2 ^ x.expFor p := by positivity
  have hval : (x.round p).val = x.atExp (x.expFor p) * (2 : ℚ) ^ x.expFor p := by
    unfold Frac.round Scaled.val
    simp only
    split
    · rename_i h
      rw [h]
      simp only
      rw [zpow_add_one₀ (by norm_num)]
      obtain ⟨q, rfl⟩ : ∃ q, p = q + 1 := ⟨p - 1, by omega⟩
      push_cast
      ring
    · rfl
  have hlo : 2 ^ (p - 1) ≤ x.atExp (x.expFor p) := by
    have h1 : ((2 : ℚ) ^ ((p : ℤ) - 1)) = ((2 ^ (p - 1) : ℕ) : ℚ) := by
      rw [show ((p : ℤ) - 1) = ((p - 1 : ℕ) : ℤ) by omega, zpow_natCast]
      push_cast
      rfl
    rw [h1] at lo
    have h2 := (abs_le.mp near).1
    have h3 : ((2 ^ (p - 1) : ℕ) : ℚ) < ((x.atExp (x.expFor p) + 1 : ℕ) : ℚ) := by
      push_cast at lo ⊢
      linarith
    have := Nat.cast_lt.mp h3
    omega
  have hhi : x.atExp (x.expFor p) ≤ 2 ^ p := by
    have h2 := (abs_le.mp near).2
    rw [zpow_natCast] at hi
    have h3 : ((x.atExp (x.expFor p) : ℕ) : ℚ) < ((2 ^ p + 1 : ℕ) : ℚ) := by
      push_cast
      linarith
    have := Nat.cast_lt.mp h3
    omega
  have hpp : 2 ^ (p - 1) < 2 ^ p := Nat.pow_lt_pow_right (by norm_num) (by omega)
  refine ⟨?_, ?_, hval, ?_⟩
  · unfold Frac.round
    simp only
    split
    · exact Nat.le_refl _
    · exact hlo
  · unfold Frac.round
    simp only
    split
    · exact hpp
    · exact lt_of_le_of_ne hhi ‹_›
  · rw [hval]
    have hx : x.val = x.val / 2 ^ x.expFor p * 2 ^ x.expFor p := (div_mul_cancel₀ _ hpos.ne').symm
    rw [hx, ← sub_mul, abs_mul, abs_of_pos hpos]
    nlinarith

/-- The pattern of a rounded number in the normal range stands for that number (R180; log 27). -/
theorem f32Value_bits32 {neg : Bool} {x : Scaled} (h1 : 2 ^ 23 ≤ x.man) (h2 : x.man < 2 ^ 24) (h3 : -149 ≤ x.exp)
    (h4 : x.exp ≤ 104) : f32Value (x.bits32 neg) = some ((if neg then -1 else 1) * x.val) := by
  obtain ⟨m, e⟩ := x
  simp only at h1 h2 h3 h4
  obtain ⟨k, hk⟩ := Int.eq_ofNat_of_zero_le (show 0 ≤ e + 150 by omega)
  obtain rfl : e = (k : ℤ) - 150 := by omega
  have hsign : (Scaled.bits32 neg ⟨m, (k : ℤ) - 150⟩).getLsbD 31 = neg := by
    unfold Scaled.bits32
    rw [BitVec.getLsbD_append, if_neg (by norm_num), BitVec.getLsbD_append, if_neg (by norm_num)]
    cases neg <;> rfl
  have hexp : (Scaled.bits32 neg ⟨m, (k : ℤ) - 150⟩).extractLsb' 23 8 = BitVec.ofNat 8 k := by
    apply BitVec.eq_of_getLsbD_eq
    intro i hi
    rw [BitVec.getLsbD_extractLsb']
    unfold Scaled.bits32
    rw [BitVec.getLsbD_append, if_neg (by omega), BitVec.getLsbD_append, if_pos (by omega)]
    simp [hi]
  have hfrac : (Scaled.bits32 neg ⟨m, (k : ℤ) - 150⟩).extractLsb' 0 23 = BitVec.ofNat 23 m := by
    apply BitVec.eq_of_getLsbD_eq
    intro i hi
    rw [BitVec.getLsbD_extractLsb']
    unfold Scaled.bits32
    rw [BitVec.getLsbD_append, if_pos (by omega)]
    simp [hi]
  unfold f32Value
  simp only [hsign, hexp, hfrac, BitVec.toNat_ofNat]
  have hk8 : k % 2 ^ 8 = k := Nat.mod_eq_of_lt (by omega)
  rw [hk8, if_neg (by omega), if_neg (by omega)]
  have hm : 2 ^ 23 + m % 2 ^ 23 = m := by omega
  rw [hm, Scaled.val, mul_assoc]

end Sys2Proof.Machine
end

