-- ==== Sys2Proof/Laws/Memory.lean ====
section
/-! SUPPORT. The body buffer: every operation keeps the canonical form, and what a read after a write gives
(spec/20_memory.md R40, R47, R49). -/

namespace Sys2Proof.Machine

/-- The canonical form as a statement about the list: rising offsets, all below 253. -/
theorem Memory.wf_iff (m : Memory) :
    m.wf = true ↔ (m.map Prod.fst).Pairwise (· < ·) ∧ ∀ c ∈ m, c.1 < Config.bufDepth := by
  induction m with
  | nil => simp [Memory.wf]
  | cons c rest ih =>
    obtain ⟨a, x⟩ := c
    cases rest with
    | nil => simp [Memory.wf]
    | cons d rest =>
      obtain ⟨b, y⟩ := d
      simp only [Memory.wf, Bool.and_eq_true, decide_eq_true_eq, ih]
      simp only [List.map_cons, List.pairwise_cons, List.mem_cons, forall_eq_or_imp]
      constructor
      · rintro ⟨hab, ⟨hb, hp⟩, hbd, hr⟩
        exact ⟨⟨⟨hab, fun c hc => hab.trans (hb c hc)⟩, hb, hp⟩, by omega, hbd, hr⟩
      · rintro ⟨⟨⟨hab, _⟩, hb, hp⟩, _, hbd, hr⟩
        exact ⟨hab, ⟨hb, hp⟩, hbd, hr⟩

@[simp] theorem Memory.wf_nil : Memory.wf [] = true := rfl

theorem Memory.mem_set {m : Memory} {i : Nat} {x : Byte} {c : Host.Cell} (h : c ∈ Memory.set m i x) :
    c = (i, x) ∨ c ∈ m := by
  induction m with
  | nil => simpa [Memory.set] using h
  | cons d rest ih =>
    obtain ⟨a, y⟩ := d
    simp only [Memory.set] at h
    split at h
    · simpa using h
    · split at h
      · rcases List.mem_cons.mp h with h | h
        · exact .inl h
        · exact .inr (List.mem_cons_of_mem _ h)
      · rcases List.mem_cons.mp h with h | h
        · exact .inr (h ▸ List.mem_cons_self)
        · exact (ih h).imp id (List.mem_cons_of_mem _)

/-- A write inside the buffer keeps the canonical form. -/
theorem Memory.set_wf {m : Memory} {i : Nat} (x : Byte) (hm : m.wf = true) (hi : i < Config.bufDepth) :
    (Memory.set m i x).wf = true := by
  rw [Memory.wf_iff] at hm ⊢
  refine ⟨?_, fun c hc => ?_⟩
  · induction m with
    | nil => simp [Memory.set]
    | cons d rest ih =>
      obtain ⟨a, y⟩ := d
      obtain ⟨hp, hb⟩ := hm
      simp only [List.map_cons, List.pairwise_cons] at hp
      simp only [List.mem_cons, forall_eq_or_imp] at hb
      simp only [Memory.set]
      split
      · rename_i hia
        simp only [List.map_cons, List.pairwise_cons, List.mem_cons, forall_eq_or_imp]
        exact ⟨⟨hia, fun c hc => hia.trans (hp.1 c hc)⟩, hp⟩
      · split
        · rename_i hia
          subst hia
          simpa using hp
        · rename_i h1 h2
          simp only [List.map_cons, List.pairwise_cons]
          refine ⟨fun b hbm => ?_, ih ⟨hp.2, hb.2⟩⟩
          obtain ⟨c, hc, rfl⟩ := List.mem_map.mp hbm
          rcases Memory.mem_set hc with h | h
          · rw [h]; simp only; omega
          · exact hp.1 _ (List.mem_map_of_mem h)
  · rcases Memory.mem_set hc with h | h
    · rw [h]; exact hi
    · exact hm.2 _ h

theorem Memory.setBytes_wf {m : Memory} {i : Nat} {s : List Byte} (hm : m.wf = true)
    (hi : i + s.length ≤ Config.bufDepth) : (Memory.setBytes m i s).wf = true := by
  induction s generalizing m i with
  | nil => exact hm
  | cons x xs ih =>
    simp only [List.length_cons] at hi
    exact ih (Memory.set_wf x hm (by omega)) (by omega)

/-- `MemWrite` keeps the canonical form. -/
theorem Memory.write_wf {m n : Memory} {i : Nat} {s : List Byte} (hm : m.wf = true)
    (h : Memory.write m i s = .ok n) : n.wf = true := by
  unfold Memory.write at h
  split at h
  · cases h
    exact Memory.setBytes_wf hm ‹_›
  · cases h

theorem Memory.write_eq {m : Memory} {i : Nat} {s : List Byte} (h : i + s.length ≤ Config.bufDepth) :
    Memory.write m i s = .ok (Memory.setBytes m i s) := by
  simp [Memory.write, h]

theorem Memory.lookup_set (m : Memory) (i j : Nat) (x : Byte) :
    Memory.lookup (Memory.set m i x) j = if j = i then some x else Memory.lookup m j := by
  induction m with
  | nil => simp [Memory.set, Memory.lookup]
  | cons d rest ih =>
    obtain ⟨a, y⟩ := d
    simp only [Memory.set]
    split
    · simp [Memory.lookup]
    · split
      · rename_i h
        subst h
        by_cases hj : j = i <;> simp [Memory.lookup, hj]
      · rename_i h1 h2
        simp only [Memory.lookup, ih]
        by_cases hj : j = i
        · subst hj; simp [h2]
        · simp [hj]

/-- A byte after a write: the string's byte inside it, the old byte outside. -/
theorem Memory.lookup_setBytes (m : Memory) (i j : Nat) (s : List Byte) :
    Memory.lookup (Memory.setBytes m i s) j =
      if i ≤ j ∧ j < i + s.length then s[j - i]? else Memory.lookup m j := by
  induction s generalizing m i with
  | nil =>
    simp only [Memory.setBytes, List.length_nil]
    rw [if_neg (by omega)]
  | cons x xs ih =>
    simp only [Memory.setBytes, ih, Memory.lookup_set, List.length_cons]
    rcases Nat.lt_trichotomy j i with h | h | h
    · rw [if_neg (by omega), if_neg (by omega), if_neg (by omega)]
    · subst h
      rw [if_neg (by omega), if_pos rfl, if_pos (by omega)]
      simp
    · obtain ⟨k, rfl⟩ : ∃ k, j = i + 1 + k := ⟨j - (i + 1), by omega⟩
      have h4 : i + 1 + k - i = k + 1 := by omega
      have h5 : i + 1 + k - (i + 1) = k := by omega
      by_cases hk : k < xs.length
      · rw [if_pos (by omega), if_pos (by omega), h4, h5]
        rfl
      · rw [if_neg (by omega), if_neg (by omega), if_neg (by omega)]

theorem Memory.readByte_eq {m : Memory} {i : Nat} {x : Byte} (hi : i < Config.bufDepth)
    (h : Memory.lookup m i = some x) : Memory.readByte m i = .ok x := by
  simp [Memory.readByte, hi, h]

/-- `MemRead` gives a string exactly when every byte of it holds a value inside the buffer. -/
theorem Memory.read_eq_ok {m : Memory} {i n : Nat} {s : List Byte} :
    Memory.read m i n = .ok s ↔ s.length = n ∧ ∀ k (h : k < s.length), Memory.readByte m (i + k) = .ok s[k] := by
  induction n generalizing i s with
  | zero =>
    constructor
    · intro h
      cases h
      exact ⟨rfl, fun k h => absurd h (Nat.not_lt_zero k)⟩
    · rintro ⟨h, _⟩
      rw [List.length_eq_zero_iff.mp h]
      rfl
  | succ n ih =>
    cases s with
    | nil =>
      simp only [List.length_nil, Memory.read]
      constructor
      · intro h
        split at h
        · cases h
        · split at h <;> cases h
      · rintro ⟨h, _⟩; omega
    | cons x xs =>
      simp only [Memory.read, List.length_cons, Nat.add_right_cancel_iff]
      constructor
      · intro h
        split at h
        · cases h
        · rename_i y hy
          split at h
          · cases h
          · rename_i ys hys
            cases h
            obtain ⟨hl, hr⟩ := ih.mp hys
            refine ⟨hl, fun k hk => ?_⟩
            cases k with
            | zero => exact hy
            | succ k =>
              have := hr k (by omega)
              rwa [show i + 1 + k = i + (k + 1) by omega] at this
      · rintro ⟨hl, hr⟩
        have h0 := hr 0 (by omega)
        simp only [Nat.add_zero, List.getElem_cons_zero] at h0
        have ht : Memory.read m (i + 1) n = .ok xs := ih.mpr ⟨hl, fun k hk => by
          have := hr (k + 1) (by omega)
          rwa [show i + (k + 1) = i + 1 + k by omega] at this⟩
        rw [h0, ht]

/-- Reading back a string written at offset 0. -/
theorem Memory.read_setBytes (m : Memory) {s : List Byte} {n : Nat} (hn : n ≤ s.length)
    (hs : s.length ≤ Config.bufDepth) : Memory.read (Memory.setBytes m 0 s) 0 n = .ok (s.take n) := by
  rw [Memory.read_eq_ok]
  refine ⟨by simpa using hn, fun k hk => ?_⟩
  simp only [List.length_take] at hk
  refine Memory.readByte_eq (by omega) ?_
  rw [Memory.lookup_setBytes, if_pos (by omega)]
  simp only [Nat.zero_add, Nat.sub_zero, List.getElem_take]
  exact List.getElem?_eq_getElem (by omega)

end Sys2Proof.Machine
end

