-- ==== Sys2Proof/Laws/State.lean ====
section
/-! SUPPORT. One lemma per field of State and per named update: what the field is afterwards. -/

namespace Sys2Proof.Machine

variable (s : State)

/-! ### `State.setCount` -/

@[simp] theorem State.setCount_cfg (n : Nat) : (s.setCount n).cfg = s.cfg := rfl
@[simp] theorem State.setCount_st (n : Nat) : (s.setCount n).st = s.st := rfl
@[simp] theorem State.setCount_status (n : Nat) : (s.setCount n).status = s.status := rfl
@[simp] theorem State.setCount_expHdr (n : Nat) : (s.setCount n).expHdr = s.expHdr := rfl
@[simp] theorem State.setCount_hdr (n : Nat) : (s.setCount n).hdr = s.hdr := rfl
@[simp] theorem State.setCount_len (n : Nat) : (s.setCount n).len = s.len := rfl
@[simp] theorem State.setCount_cnt (n : Nat) : (s.setCount n).cnt = s.cnt := rfl
@[simp] theorem State.setCount_sum (n : Nat) : (s.setCount n).sum = s.sum := rfl
@[simp] theorem State.setCount_outLen (n : Nat) : (s.setCount n).outLen = s.outLen := rfl
@[simp] theorem State.setCount_buf (n : Nat) : (s.setCount n).buf = s.buf := rfl
@[simp] theorem State.setCount_fld (n : Nat) : (s.setCount n).fld = s.fld := rfl
@[simp] theorem State.setCount_val (n : Nat) : (s.setCount n).val = s.val := rfl
@[simp] theorem State.setCount_req (n : Nat) : (s.setCount n).req = s.req := rfl
@[simp] theorem State.setCount_rsp (n : Nat) : (s.setCount n).rsp = s.rsp := rfl
@[simp] theorem State.setCount_handle (n : Nat) : (s.setCount n).handle = s.handle := rfl
@[simp] theorem State.setCount_vmin (n : Nat) : (s.setCount n).vmin = if s.handle.isSome then .count n else s.vmin := rfl
@[simp] theorem State.setCount_wire (n : Nat) : (s.setCount n).wire = s.wire := rfl
@[simp] theorem State.setCount_debt (n : Nat) : (s.setCount n).debt = s.debt := rfl
@[simp] theorem State.setCount_abandoned (n : Nat) : (s.setCount n).abandoned = s.abandoned := rfl
@[simp] theorem State.setCount_sent (n : Nat) : (s.setCount n).sent = s.sent := rfl
@[simp] theorem State.setCount_tret (n : Nat) : (s.setCount n).tret = s.tret := rfl
@[simp] theorem State.setCount_sextOut (n : Nat) : (s.setCount n).sextOut = s.sextOut := rfl
@[simp] theorem State.setCount_tick (n : Nat) : (s.setCount n).tick = s.tick := rfl
@[simp] theorem State.setCount_schedule (n : Nat) : (s.setCount n).schedule = s.schedule := rfl

/-! ### `State.issue` -/

@[simp] theorem State.issue_cfg (n : Nat) : (s.issue n).cfg = s.cfg := rfl
@[simp] theorem State.issue_st (n : Nat) : (s.issue n).st = s.st := rfl
@[simp] theorem State.issue_status (n : Nat) : (s.issue n).status = s.status := rfl
@[simp] theorem State.issue_expHdr (n : Nat) : (s.issue n).expHdr = s.expHdr := rfl
@[simp] theorem State.issue_hdr (n : Nat) : (s.issue n).hdr = s.hdr := rfl
@[simp] theorem State.issue_len (n : Nat) : (s.issue n).len = s.len := rfl
@[simp] theorem State.issue_cnt (n : Nat) : (s.issue n).cnt = s.cnt := rfl
@[simp] theorem State.issue_sum (n : Nat) : (s.issue n).sum = s.sum := rfl
@[simp] theorem State.issue_outLen (n : Nat) : (s.issue n).outLen = s.outLen := rfl
@[simp] theorem State.issue_buf (n : Nat) : (s.issue n).buf = s.buf := rfl
@[simp] theorem State.issue_fld (n : Nat) : (s.issue n).fld = s.fld := rfl
@[simp] theorem State.issue_val (n : Nat) : (s.issue n).val = s.val := rfl
@[simp] theorem State.issue_req (n : Nat) : (s.issue n).req = some n := rfl
@[simp] theorem State.issue_rsp (n : Nat) : (s.issue n).rsp = none := rfl
@[simp] theorem State.issue_handle (n : Nat) : (s.issue n).handle = s.handle := rfl
@[simp] theorem State.issue_vmin (n : Nat) : (s.issue n).vmin = if s.handle.isSome then .count n else s.vmin := rfl
@[simp] theorem State.issue_wire (n : Nat) : (s.issue n).wire = s.wire := rfl
@[simp] theorem State.issue_debt (n : Nat) : (s.issue n).debt = s.debt := rfl
@[simp] theorem State.issue_abandoned (n : Nat) : (s.issue n).abandoned = s.abandoned := rfl
@[simp] theorem State.issue_sent (n : Nat) : (s.issue n).sent = s.sent := rfl
@[simp] theorem State.issue_tret (n : Nat) : (s.issue n).tret = s.tret := rfl
@[simp] theorem State.issue_sextOut (n : Nat) : (s.issue n).sextOut = s.sextOut := rfl
@[simp] theorem State.issue_tick (n : Nat) : (s.issue n).tick = s.tick := rfl
@[simp] theorem State.issue_schedule (n : Nat) : (s.issue n).schedule = s.schedule := rfl

/-! ### `State.answered` -/

@[simp] theorem State.answered_cfg : s.answered.cfg = s.cfg := rfl
@[simp] theorem State.answered_st : s.answered.st = s.st := rfl
@[simp] theorem State.answered_status : s.answered.status = s.status := rfl
@[simp] theorem State.answered_expHdr : s.answered.expHdr = s.expHdr := rfl
@[simp] theorem State.answered_hdr : s.answered.hdr = s.hdr := rfl
@[simp] theorem State.answered_len : s.answered.len = s.len := rfl
@[simp] theorem State.answered_cnt : s.answered.cnt = s.cnt := rfl
@[simp] theorem State.answered_sum : s.answered.sum = s.sum := rfl
@[simp] theorem State.answered_outLen : s.answered.outLen = s.outLen := rfl
@[simp] theorem State.answered_buf : s.answered.buf = s.buf := rfl
@[simp] theorem State.answered_fld : s.answered.fld = s.fld := rfl
@[simp] theorem State.answered_val : s.answered.val = s.val := rfl
@[simp] theorem State.answered_req : s.answered.req = none := rfl
@[simp] theorem State.answered_rsp : s.answered.rsp = none := rfl
@[simp] theorem State.answered_handle : s.answered.handle = s.handle := rfl
@[simp] theorem State.answered_vmin : s.answered.vmin = s.vmin := rfl
@[simp] theorem State.answered_wire : s.answered.wire = s.wire := rfl
@[simp] theorem State.answered_debt : s.answered.debt = s.debt := rfl
@[simp] theorem State.answered_abandoned : s.answered.abandoned = s.abandoned := rfl
@[simp] theorem State.answered_sent : s.answered.sent = s.sent := rfl
@[simp] theorem State.answered_tret : s.answered.tret = s.tret := rfl
@[simp] theorem State.answered_sextOut : s.answered.sextOut = s.sextOut := rfl
@[simp] theorem State.answered_tick : s.answered.tick = s.tick := rfl
@[simp] theorem State.answered_schedule : s.answered.schedule = s.schedule := rfl

/-! ### `State.raise` -/

@[simp] theorem State.raise_cfg (k : Failure) : (s.raise k).cfg = s.cfg := rfl
@[simp] theorem State.raise_st (k : Failure) : (s.raise k).st = .done := rfl
@[simp] theorem State.raise_status (k : Failure) : (s.raise k).status = .failed k := rfl
@[simp] theorem State.raise_expHdr (k : Failure) : (s.raise k).expHdr = s.expHdr := rfl
@[simp] theorem State.raise_hdr (k : Failure) : (s.raise k).hdr = s.hdr := rfl
@[simp] theorem State.raise_len (k : Failure) : (s.raise k).len = s.len := rfl
@[simp] theorem State.raise_cnt (k : Failure) : (s.raise k).cnt = s.cnt := rfl
@[simp] theorem State.raise_sum (k : Failure) : (s.raise k).sum = s.sum := rfl
@[simp] theorem State.raise_outLen (k : Failure) : (s.raise k).outLen = s.outLen := rfl
@[simp] theorem State.raise_buf (k : Failure) : (s.raise k).buf = s.buf := rfl
@[simp] theorem State.raise_fld (k : Failure) : (s.raise k).fld = s.fld := rfl
@[simp] theorem State.raise_val (k : Failure) : (s.raise k).val = s.val := rfl
@[simp] theorem State.raise_req (k : Failure) : (s.raise k).req = s.req := rfl
@[simp] theorem State.raise_rsp (k : Failure) : (s.raise k).rsp = s.rsp := rfl
@[simp] theorem State.raise_handle (k : Failure) : (s.raise k).handle = s.handle := rfl
@[simp] theorem State.raise_vmin (k : Failure) : (s.raise k).vmin = s.vmin := rfl
@[simp] theorem State.raise_wire (k : Failure) : (s.raise k).wire = s.wire := rfl
@[simp] theorem State.raise_debt (k : Failure) : (s.raise k).debt = s.debt := rfl
@[simp] theorem State.raise_abandoned (k : Failure) : (s.raise k).abandoned = s.abandoned := rfl
@[simp] theorem State.raise_sent (k : Failure) : (s.raise k).sent = s.sent := rfl
@[simp] theorem State.raise_tret (k : Failure) : (s.raise k).tret = s.tret := rfl
@[simp] theorem State.raise_sextOut (k : Failure) : (s.raise k).sextOut = s.sextOut := rfl
@[simp] theorem State.raise_tick (k : Failure) : (s.raise k).tick = s.tick := rfl
@[simp] theorem State.raise_schedule (k : Failure) : (s.raise k).schedule = s.schedule := rfl

/-! ### `State.cleared` -/

@[simp] theorem State.cleared_cfg : s.cleared.cfg = s.cfg := rfl
@[simp] theorem State.cleared_st : s.cleared.st = s.st := rfl
@[simp] theorem State.cleared_status : s.cleared.status = s.status := rfl
@[simp] theorem State.cleared_expHdr : s.cleared.expHdr = s.expHdr := rfl
@[simp] theorem State.cleared_hdr : s.cleared.hdr = none := rfl
@[simp] theorem State.cleared_len : s.cleared.len = none := rfl
@[simp] theorem State.cleared_cnt : s.cleared.cnt = none := rfl
@[simp] theorem State.cleared_sum : s.cleared.sum = none := rfl
@[simp] theorem State.cleared_outLen : s.cleared.outLen = none := rfl
@[simp] theorem State.cleared_buf : s.cleared.buf = [] := rfl
@[simp] theorem State.cleared_fld : s.cleared.fld = Vector.replicate 9 none := rfl
@[simp] theorem State.cleared_val : s.cleared.val = Vector.replicate 7 none := rfl
@[simp] theorem State.cleared_req : s.cleared.req = s.req := rfl
@[simp] theorem State.cleared_rsp : s.cleared.rsp = s.rsp := rfl
@[simp] theorem State.cleared_handle : s.cleared.handle = s.handle := rfl
@[simp] theorem State.cleared_vmin : s.cleared.vmin = s.vmin := rfl
@[simp] theorem State.cleared_wire : s.cleared.wire = s.wire := rfl
@[simp] theorem State.cleared_debt : s.cleared.debt = s.debt := rfl
@[simp] theorem State.cleared_abandoned : s.cleared.abandoned = s.abandoned := rfl
@[simp] theorem State.cleared_sent : s.cleared.sent = s.sent := rfl
@[simp] theorem State.cleared_tret : s.cleared.tret = s.tret := rfl
@[simp] theorem State.cleared_sextOut : s.cleared.sextOut = s.sextOut := rfl
@[simp] theorem State.cleared_tick : s.cleared.tick = s.tick := rfl
@[simp] theorem State.cleared_schedule : s.cleared.schedule = s.schedule := rfl

/-! ### `State.begin` -/

@[simp] theorem State.begin_cfg (e : Byte) : (s.begin e).cfg = s.cfg := rfl
@[simp] theorem State.begin_st (e : Byte) : (s.begin e).st = .awaitHeader := rfl
@[simp] theorem State.begin_status (e : Byte) : (s.begin e).status = .none := rfl
@[simp] theorem State.begin_expHdr (e : Byte) : (s.begin e).expHdr = some e := rfl
@[simp] theorem State.begin_hdr (e : Byte) : (s.begin e).hdr = none := rfl
@[simp] theorem State.begin_len (e : Byte) : (s.begin e).len = none := rfl
@[simp] theorem State.begin_cnt (e : Byte) : (s.begin e).cnt = none := rfl
@[simp] theorem State.begin_sum (e : Byte) : (s.begin e).sum = none := rfl
@[simp] theorem State.begin_outLen (e : Byte) : (s.begin e).outLen = none := rfl
@[simp] theorem State.begin_buf (e : Byte) : (s.begin e).buf = [] := rfl
@[simp] theorem State.begin_fld (e : Byte) : (s.begin e).fld = Vector.replicate 9 none := rfl
@[simp] theorem State.begin_val (e : Byte) : (s.begin e).val = Vector.replicate 7 none := rfl
@[simp] theorem State.begin_req (e : Byte) : (s.begin e).req = some 1 := rfl
@[simp] theorem State.begin_rsp (e : Byte) : (s.begin e).rsp = none := rfl
@[simp] theorem State.begin_handle (e : Byte) : (s.begin e).handle = s.handle := rfl
@[simp] theorem State.begin_vmin (e : Byte) : (s.begin e).vmin = if s.handle.isSome then .count 1 else s.vmin := rfl
@[simp] theorem State.begin_wire (e : Byte) : (s.begin e).wire = s.wire := rfl
@[simp] theorem State.begin_debt (e : Byte) : (s.begin e).debt = s.debt := rfl
@[simp] theorem State.begin_abandoned (e : Byte) : (s.begin e).abandoned = s.abandoned := rfl
@[simp] theorem State.begin_sent (e : Byte) : (s.begin e).sent = s.sent := rfl
@[simp] theorem State.begin_tret (e : Byte) : (s.begin e).tret = s.tret := rfl
@[simp] theorem State.begin_sextOut (e : Byte) : (s.begin e).sextOut = s.sextOut := rfl
@[simp] theorem State.begin_tick (e : Byte) : (s.begin e).tick = s.tick := rfl
@[simp] theorem State.begin_schedule (e : Byte) : (s.begin e).schedule = s.schedule := rfl

/-! ### `State.resetBlock` -/

@[simp] theorem State.resetBlock_cfg : s.resetBlock.cfg = s.cfg := rfl
@[simp] theorem State.resetBlock_st : s.resetBlock.st = .idle := rfl
@[simp] theorem State.resetBlock_status : s.resetBlock.status = .none := rfl
@[simp] theorem State.resetBlock_expHdr : s.resetBlock.expHdr = none := rfl
@[simp] theorem State.resetBlock_hdr : s.resetBlock.hdr = none := rfl
@[simp] theorem State.resetBlock_len : s.resetBlock.len = none := rfl
@[simp] theorem State.resetBlock_cnt : s.resetBlock.cnt = none := rfl
@[simp] theorem State.resetBlock_sum : s.resetBlock.sum = none := rfl
@[simp] theorem State.resetBlock_outLen : s.resetBlock.outLen = none := rfl
@[simp] theorem State.resetBlock_buf : s.resetBlock.buf = [] := rfl
@[simp] theorem State.resetBlock_fld : s.resetBlock.fld = Vector.replicate 9 none := rfl
@[simp] theorem State.resetBlock_val : s.resetBlock.val = Vector.replicate 7 none := rfl
@[simp] theorem State.resetBlock_req : s.resetBlock.req = s.req := rfl
@[simp] theorem State.resetBlock_rsp : s.resetBlock.rsp = s.rsp := rfl
@[simp] theorem State.resetBlock_handle : s.resetBlock.handle = s.handle := rfl
@[simp] theorem State.resetBlock_vmin : s.resetBlock.vmin = s.vmin := rfl
@[simp] theorem State.resetBlock_wire : s.resetBlock.wire = s.wire := rfl
@[simp] theorem State.resetBlock_debt : s.resetBlock.debt = s.debt := rfl
@[simp] theorem State.resetBlock_abandoned : s.resetBlock.abandoned = s.abandoned := rfl
@[simp] theorem State.resetBlock_sent : s.resetBlock.sent = s.sent := rfl
@[simp] theorem State.resetBlock_tret : s.resetBlock.tret = s.tret := rfl
@[simp] theorem State.resetBlock_sextOut : s.resetBlock.sextOut = s.sextOut := rfl
@[simp] theorem State.resetBlock_tick : s.resetBlock.tick = s.tick := rfl
@[simp] theorem State.resetBlock_schedule : s.resetBlock.schedule = s.schedule := rfl

/-! ### `State.deliver` -/

@[simp] theorem State.deliver_cfg (bs : List Byte) : (s.deliver bs).cfg = s.cfg := rfl
@[simp] theorem State.deliver_st (bs : List Byte) : (s.deliver bs).st = s.st := rfl
@[simp] theorem State.deliver_status (bs : List Byte) : (s.deliver bs).status = s.status := rfl
@[simp] theorem State.deliver_expHdr (bs : List Byte) : (s.deliver bs).expHdr = s.expHdr := rfl
@[simp] theorem State.deliver_hdr (bs : List Byte) : (s.deliver bs).hdr = s.hdr := rfl
@[simp] theorem State.deliver_len (bs : List Byte) : (s.deliver bs).len = s.len := rfl
@[simp] theorem State.deliver_cnt (bs : List Byte) : (s.deliver bs).cnt = s.cnt := rfl
@[simp] theorem State.deliver_sum (bs : List Byte) : (s.deliver bs).sum = s.sum := rfl
@[simp] theorem State.deliver_outLen (bs : List Byte) : (s.deliver bs).outLen = s.outLen := rfl
@[simp] theorem State.deliver_buf (bs : List Byte) : (s.deliver bs).buf = s.buf := rfl
@[simp] theorem State.deliver_fld (bs : List Byte) : (s.deliver bs).fld = s.fld := rfl
@[simp] theorem State.deliver_val (bs : List Byte) : (s.deliver bs).val = s.val := rfl
@[simp] theorem State.deliver_req (bs : List Byte) : (s.deliver bs).req = s.req := rfl
@[simp] theorem State.deliver_rsp (bs : List Byte) : (s.deliver bs).rsp = s.rsp := rfl
@[simp] theorem State.deliver_handle (bs : List Byte) : (s.deliver bs).handle = s.handle := rfl
@[simp] theorem State.deliver_vmin (bs : List Byte) : (s.deliver bs).vmin = s.vmin := rfl
@[simp] theorem State.deliver_wire (bs : List Byte) : (s.deliver bs).wire = s.wire ++ bs.drop s.debt := rfl
@[simp] theorem State.deliver_debt (bs : List Byte) : (s.deliver bs).debt = s.debt - bs.length := rfl
@[simp] theorem State.deliver_abandoned (bs : List Byte) : (s.deliver bs).abandoned = s.abandoned := rfl
@[simp] theorem State.deliver_sent (bs : List Byte) : (s.deliver bs).sent = s.sent := rfl
@[simp] theorem State.deliver_tret (bs : List Byte) : (s.deliver bs).tret = s.tret := rfl
@[simp] theorem State.deliver_sextOut (bs : List Byte) : (s.deliver bs).sextOut = s.sextOut := rfl
@[simp] theorem State.deliver_tick (bs : List Byte) : (s.deliver bs).tick = s.tick := rfl
@[simp] theorem State.deliver_schedule (bs : List Byte) : (s.deliver bs).schedule = s.schedule := rfl

/-! ### `State.setFld` -/

@[simp] theorem State.setFld_cfg (k : Fin 9) (v : Word) : (s.setFld k v).cfg = s.cfg := rfl
@[simp] theorem State.setFld_st (k : Fin 9) (v : Word) : (s.setFld k v).st = s.st := rfl
@[simp] theorem State.setFld_status (k : Fin 9) (v : Word) : (s.setFld k v).status = s.status := rfl
@[simp] theorem State.setFld_expHdr (k : Fin 9) (v : Word) : (s.setFld k v).expHdr = s.expHdr := rfl
@[simp] theorem State.setFld_hdr (k : Fin 9) (v : Word) : (s.setFld k v).hdr = s.hdr := rfl
@[simp] theorem State.setFld_len (k : Fin 9) (v : Word) : (s.setFld k v).len = s.len := rfl
@[simp] theorem State.setFld_cnt (k : Fin 9) (v : Word) : (s.setFld k v).cnt = s.cnt := rfl
@[simp] theorem State.setFld_sum (k : Fin 9) (v : Word) : (s.setFld k v).sum = s.sum := rfl
@[simp] theorem State.setFld_outLen (k : Fin 9) (v : Word) : (s.setFld k v).outLen = s.outLen := rfl
@[simp] theorem State.setFld_buf (k : Fin 9) (v : Word) : (s.setFld k v).buf = s.buf := rfl
@[simp] theorem State.setFld_fld (k : Fin 9) (v : Word) : (s.setFld k v).fld = s.fld.set k.val (some v) := rfl
@[simp] theorem State.setFld_val (k : Fin 9) (v : Word) : (s.setFld k v).val = s.val := rfl
@[simp] theorem State.setFld_req (k : Fin 9) (v : Word) : (s.setFld k v).req = s.req := rfl
@[simp] theorem State.setFld_rsp (k : Fin 9) (v : Word) : (s.setFld k v).rsp = s.rsp := rfl
@[simp] theorem State.setFld_handle (k : Fin 9) (v : Word) : (s.setFld k v).handle = s.handle := rfl
@[simp] theorem State.setFld_vmin (k : Fin 9) (v : Word) : (s.setFld k v).vmin = s.vmin := rfl
@[simp] theorem State.setFld_wire (k : Fin 9) (v : Word) : (s.setFld k v).wire = s.wire := rfl
@[simp] theorem State.setFld_debt (k : Fin 9) (v : Word) : (s.setFld k v).debt = s.debt := rfl
@[simp] theorem State.setFld_abandoned (k : Fin 9) (v : Word) : (s.setFld k v).abandoned = s.abandoned := rfl
@[simp] theorem State.setFld_sent (k : Fin 9) (v : Word) : (s.setFld k v).sent = s.sent := rfl
@[simp] theorem State.setFld_tret (k : Fin 9) (v : Word) : (s.setFld k v).tret = s.tret := rfl
@[simp] theorem State.setFld_sextOut (k : Fin 9) (v : Word) : (s.setFld k v).sextOut = s.sextOut := rfl
@[simp] theorem State.setFld_tick (k : Fin 9) (v : Word) : (s.setFld k v).tick = s.tick := rfl
@[simp] theorem State.setFld_schedule (k : Fin 9) (v : Word) : (s.setFld k v).schedule = s.schedule := rfl

/-! ### `State.setVal` -/

@[simp] theorem State.setVal_cfg (j : Fin 7) (x : F32) : (s.setVal j x).cfg = s.cfg := rfl
@[simp] theorem State.setVal_st (j : Fin 7) (x : F32) : (s.setVal j x).st = s.st := rfl
@[simp] theorem State.setVal_status (j : Fin 7) (x : F32) : (s.setVal j x).status = s.status := rfl
@[simp] theorem State.setVal_expHdr (j : Fin 7) (x : F32) : (s.setVal j x).expHdr = s.expHdr := rfl
@[simp] theorem State.setVal_hdr (j : Fin 7) (x : F32) : (s.setVal j x).hdr = s.hdr := rfl
@[simp] theorem State.setVal_len (j : Fin 7) (x : F32) : (s.setVal j x).len = s.len := rfl
@[simp] theorem State.setVal_cnt (j : Fin 7) (x : F32) : (s.setVal j x).cnt = s.cnt := rfl
@[simp] theorem State.setVal_sum (j : Fin 7) (x : F32) : (s.setVal j x).sum = s.sum := rfl
@[simp] theorem State.setVal_outLen (j : Fin 7) (x : F32) : (s.setVal j x).outLen = s.outLen := rfl
@[simp] theorem State.setVal_buf (j : Fin 7) (x : F32) : (s.setVal j x).buf = s.buf := rfl
@[simp] theorem State.setVal_fld (j : Fin 7) (x : F32) : (s.setVal j x).fld = s.fld := rfl
@[simp] theorem State.setVal_val (j : Fin 7) (x : F32) : (s.setVal j x).val = s.val.set j.val (some x) := rfl
@[simp] theorem State.setVal_req (j : Fin 7) (x : F32) : (s.setVal j x).req = s.req := rfl
@[simp] theorem State.setVal_rsp (j : Fin 7) (x : F32) : (s.setVal j x).rsp = s.rsp := rfl
@[simp] theorem State.setVal_handle (j : Fin 7) (x : F32) : (s.setVal j x).handle = s.handle := rfl
@[simp] theorem State.setVal_vmin (j : Fin 7) (x : F32) : (s.setVal j x).vmin = s.vmin := rfl
@[simp] theorem State.setVal_wire (j : Fin 7) (x : F32) : (s.setVal j x).wire = s.wire := rfl
@[simp] theorem State.setVal_debt (j : Fin 7) (x : F32) : (s.setVal j x).debt = s.debt := rfl
@[simp] theorem State.setVal_abandoned (j : Fin 7) (x : F32) : (s.setVal j x).abandoned = s.abandoned := rfl
@[simp] theorem State.setVal_sent (j : Fin 7) (x : F32) : (s.setVal j x).sent = s.sent := rfl
@[simp] theorem State.setVal_tret (j : Fin 7) (x : F32) : (s.setVal j x).tret = s.tret := rfl
@[simp] theorem State.setVal_sextOut (j : Fin 7) (x : F32) : (s.setVal j x).sextOut = s.sextOut := rfl
@[simp] theorem State.setVal_tick (j : Fin 7) (x : F32) : (s.setVal j x).tick = s.tick := rfl
@[simp] theorem State.setVal_schedule (j : Fin 7) (x : F32) : (s.setVal j x).schedule = s.schedule := rfl

/-! ### `State.withFetchWord` -/

@[simp] theorem State.withFetchWord_cfg (nbits w : Nat) : (s.withFetchWord nbits w).cfg = s.cfg := rfl
@[simp] theorem State.withFetchWord_st (nbits w : Nat) : (s.withFetchWord nbits w).st = s.st := rfl
@[simp] theorem State.withFetchWord_status (nbits w : Nat) : (s.withFetchWord nbits w).status = s.status := rfl
@[simp] theorem State.withFetchWord_expHdr (nbits w : Nat) : (s.withFetchWord nbits w).expHdr = s.expHdr := rfl
@[simp] theorem State.withFetchWord_hdr (nbits w : Nat) : (s.withFetchWord nbits w).hdr = s.hdr := rfl
@[simp] theorem State.withFetchWord_len (nbits w : Nat) : (s.withFetchWord nbits w).len = s.len := rfl
@[simp] theorem State.withFetchWord_cnt (nbits w : Nat) : (s.withFetchWord nbits w).cnt = s.cnt := rfl
@[simp] theorem State.withFetchWord_sum (nbits w : Nat) : (s.withFetchWord nbits w).sum = s.sum := rfl
@[simp] theorem State.withFetchWord_outLen (nbits w : Nat) : (s.withFetchWord nbits w).outLen = s.outLen := rfl
@[simp] theorem State.withFetchWord_buf (nbits w : Nat) : (s.withFetchWord nbits w).buf = s.buf := rfl
@[simp] theorem State.withFetchWord_fld (nbits w : Nat) : (s.withFetchWord nbits w).fld = s.fld := rfl
@[simp] theorem State.withFetchWord_val (nbits w : Nat) : (s.withFetchWord nbits w).val = s.val := rfl
@[simp] theorem State.withFetchWord_req (nbits w : Nat) : (s.withFetchWord nbits w).req = s.req := rfl
@[simp] theorem State.withFetchWord_rsp (nbits w : Nat) : (s.withFetchWord nbits w).rsp = s.rsp := rfl
@[simp] theorem State.withFetchWord_handle (nbits w : Nat) : (s.withFetchWord nbits w).handle = s.handle := rfl
@[simp] theorem State.withFetchWord_vmin (nbits w : Nat) : (s.withFetchWord nbits w).vmin = s.vmin := rfl
@[simp] theorem State.withFetchWord_wire (nbits w : Nat) : (s.withFetchWord nbits w).wire = s.wire := rfl
@[simp] theorem State.withFetchWord_debt (nbits w : Nat) : (s.withFetchWord nbits w).debt = s.debt := rfl
@[simp] theorem State.withFetchWord_abandoned (nbits w : Nat) : (s.withFetchWord nbits w).abandoned = s.abandoned := rfl
@[simp] theorem State.withFetchWord_sent (nbits w : Nat) : (s.withFetchWord nbits w).sent = s.sent := rfl
@[simp] theorem State.withFetchWord_tret (nbits w : Nat) : (s.withFetchWord nbits w).tret = s.tret := rfl
@[simp] theorem State.withFetchWord_sextOut (nbits w : Nat) : (s.withFetchWord nbits w).sextOut = s.sextOut := rfl
@[simp] theorem State.withFetchWord_tick (nbits w : Nat) : (s.withFetchWord nbits w).tick = s.tick := rfl
@[simp] theorem State.withFetchWord_schedule (nbits w : Nat) : (s.withFetchWord nbits w).schedule = tableEvent nbits w :: s.schedule := rfl

/-! ### `State.abandon`: only the request channels, the wire and the free-value counter move -/

@[simp] theorem State.abandon_cfg : s.abandon.cfg = s.cfg := by
  unfold State.abandon; split <;> rfl
@[simp] theorem State.abandon_st : s.abandon.st = s.st := by
  unfold State.abandon; split <;> rfl
@[simp] theorem State.abandon_status : s.abandon.status = s.status := by
  unfold State.abandon; split <;> rfl
@[simp] theorem State.abandon_expHdr : s.abandon.expHdr = s.expHdr := by
  unfold State.abandon; split <;> rfl
@[simp] theorem State.abandon_hdr : s.abandon.hdr = s.hdr := by
  unfold State.abandon; split <;> rfl
@[simp] theorem State.abandon_len : s.abandon.len = s.len := by
  unfold State.abandon; split <;> rfl
@[simp] theorem State.abandon_cnt : s.abandon.cnt = s.cnt := by
  unfold State.abandon; split <;> rfl
@[simp] theorem State.abandon_sum : s.abandon.sum = s.sum := by
  unfold State.abandon; split <;> rfl
@[simp] theorem State.abandon_outLen : s.abandon.outLen = s.outLen := by
  unfold State.abandon; split <;> rfl
@[simp] theorem State.abandon_buf : s.abandon.buf = s.buf := by
  unfold State.abandon; split <;> rfl
@[simp] theorem State.abandon_fld : s.abandon.fld = s.fld := by
  unfold State.abandon; split <;> rfl
@[simp] theorem State.abandon_val : s.abandon.val = s.val := by
  unfold State.abandon; split <;> rfl
@[simp] theorem State.abandon_req : s.abandon.req = none := by
  unfold State.abandon; split <;> rfl
@[simp] theorem State.abandon_rsp : s.abandon.rsp = none := by
  unfold State.abandon; split <;> rfl
@[simp] theorem State.abandon_handle : s.abandon.handle = s.handle := by
  unfold State.abandon; split <;> rfl
@[simp] theorem State.abandon_vmin : s.abandon.vmin = s.vmin := by
  unfold State.abandon; split <;> rfl
@[simp] theorem State.abandon_sent : s.abandon.sent = s.sent := by
  unfold State.abandon; split <;> rfl
@[simp] theorem State.abandon_tret : s.abandon.tret = s.tret := by
  unfold State.abandon; split <;> rfl
@[simp] theorem State.abandon_sextOut : s.abandon.sextOut = s.sextOut := by
  unfold State.abandon; split <;> rfl
@[simp] theorem State.abandon_schedule : s.abandon.schedule = s.schedule := by
  unfold State.abandon; split <;> rfl

/-! ### `State.consume`, `endRead` and `transportRead`: only the setting, the wire and the free-value counter move -/

@[simp] theorem State.consume_cfg (n : Nat) (a : Answer) : (s.consume n a).cfg = s.cfg := by
  unfold State.consume; repeat' split
  all_goals rfl
@[simp] theorem State.consume_st (n : Nat) (a : Answer) : (s.consume n a).st = s.st := by
  unfold State.consume; repeat' split
  all_goals rfl
@[simp] theorem State.consume_status (n : Nat) (a : Answer) : (s.consume n a).status = s.status := by
  unfold State.consume; repeat' split
  all_goals rfl
@[simp] theorem State.consume_expHdr (n : Nat) (a : Answer) : (s.consume n a).expHdr = s.expHdr := by
  unfold State.consume; repeat' split
  all_goals rfl
@[simp] theorem State.consume_hdr (n : Nat) (a : Answer) : (s.consume n a).hdr = s.hdr := by
  unfold State.consume; repeat' split
  all_goals rfl
@[simp] theorem State.consume_len (n : Nat) (a : Answer) : (s.consume n a).len = s.len := by
  unfold State.consume; repeat' split
  all_goals rfl
@[simp] theorem State.consume_cnt (n : Nat) (a : Answer) : (s.consume n a).cnt = s.cnt := by
  unfold State.consume; repeat' split
  all_goals rfl
@[simp] theorem State.consume_sum (n : Nat) (a : Answer) : (s.consume n a).sum = s.sum := by
  unfold State.consume; repeat' split
  all_goals rfl
@[simp] theorem State.consume_outLen (n : Nat) (a : Answer) : (s.consume n a).outLen = s.outLen := by
  unfold State.consume; repeat' split
  all_goals rfl
@[simp] theorem State.consume_buf (n : Nat) (a : Answer) : (s.consume n a).buf = s.buf := by
  unfold State.consume; repeat' split
  all_goals rfl
@[simp] theorem State.consume_fld (n : Nat) (a : Answer) : (s.consume n a).fld = s.fld := by
  unfold State.consume; repeat' split
  all_goals rfl
@[simp] theorem State.consume_val (n : Nat) (a : Answer) : (s.consume n a).val = s.val := by
  unfold State.consume; repeat' split
  all_goals rfl
@[simp] theorem State.consume_req (n : Nat) (a : Answer) : (s.consume n a).req = s.req := by
  unfold State.consume; repeat' split
  all_goals rfl
@[simp] theorem State.consume_rsp (n : Nat) (a : Answer) : (s.consume n a).rsp = s.rsp := by
  unfold State.consume; repeat' split
  all_goals rfl
@[simp] theorem State.consume_handle (n : Nat) (a : Answer) : (s.consume n a).handle = s.handle := by
  unfold State.consume; repeat' split
  all_goals rfl
@[simp] theorem State.consume_vmin (n : Nat) (a : Answer) : (s.consume n a).vmin = s.vmin := by
  unfold State.consume; repeat' split
  all_goals rfl
@[simp] theorem State.consume_debt (n : Nat) (a : Answer) : (s.consume n a).debt = s.debt := by
  unfold State.consume; repeat' split
  all_goals rfl
@[simp] theorem State.consume_abandoned (n : Nat) (a : Answer) : (s.consume n a).abandoned = s.abandoned := by
  unfold State.consume; repeat' split
  all_goals rfl
@[simp] theorem State.consume_sent (n : Nat) (a : Answer) : (s.consume n a).sent = s.sent := by
  unfold State.consume; repeat' split
  all_goals rfl
@[simp] theorem State.consume_tret (n : Nat) (a : Answer) : (s.consume n a).tret = s.tret := by
  unfold State.consume; repeat' split
  all_goals rfl
@[simp] theorem State.consume_sextOut (n : Nat) (a : Answer) : (s.consume n a).sextOut = s.sextOut := by
  unfold State.consume; repeat' split
  all_goals rfl
@[simp] theorem State.consume_schedule (n : Nat) (a : Answer) : (s.consume n a).schedule = s.schedule := by
  unfold State.consume; repeat' split
  all_goals rfl

@[simp] theorem endRead_cfg (n : Nat) : (endRead n s).2.cfg = s.cfg := s.consume_cfg n _
@[simp] theorem endRead_st (n : Nat) : (endRead n s).2.st = s.st := s.consume_st n _
@[simp] theorem endRead_status (n : Nat) : (endRead n s).2.status = s.status := s.consume_status n _
@[simp] theorem endRead_expHdr (n : Nat) : (endRead n s).2.expHdr = s.expHdr := s.consume_expHdr n _
@[simp] theorem endRead_hdr (n : Nat) : (endRead n s).2.hdr = s.hdr := s.consume_hdr n _
@[simp] theorem endRead_len (n : Nat) : (endRead n s).2.len = s.len := s.consume_len n _
@[simp] theorem endRead_cnt (n : Nat) : (endRead n s).2.cnt = s.cnt := s.consume_cnt n _
@[simp] theorem endRead_sum (n : Nat) : (endRead n s).2.sum = s.sum := s.consume_sum n _
@[simp] theorem endRead_outLen (n : Nat) : (endRead n s).2.outLen = s.outLen := s.consume_outLen n _
@[simp] theorem endRead_buf (n : Nat) : (endRead n s).2.buf = s.buf := s.consume_buf n _
@[simp] theorem endRead_fld (n : Nat) : (endRead n s).2.fld = s.fld := s.consume_fld n _
@[simp] theorem endRead_val (n : Nat) : (endRead n s).2.val = s.val := s.consume_val n _
@[simp] theorem endRead_req (n : Nat) : (endRead n s).2.req = s.req := s.consume_req n _
@[simp] theorem endRead_rsp (n : Nat) : (endRead n s).2.rsp = s.rsp := s.consume_rsp n _
@[simp] theorem endRead_handle (n : Nat) : (endRead n s).2.handle = s.handle := s.consume_handle n _
@[simp] theorem endRead_vmin (n : Nat) : (endRead n s).2.vmin = s.vmin := s.consume_vmin n _
@[simp] theorem endRead_debt (n : Nat) : (endRead n s).2.debt = s.debt := s.consume_debt n _
@[simp] theorem endRead_abandoned (n : Nat) : (endRead n s).2.abandoned = s.abandoned := s.consume_abandoned n _
@[simp] theorem endRead_sent (n : Nat) : (endRead n s).2.sent = s.sent := s.consume_sent n _
@[simp] theorem endRead_tret (n : Nat) : (endRead n s).2.tret = s.tret := s.consume_tret n _
@[simp] theorem endRead_sextOut (n : Nat) : (endRead n s).2.sextOut = s.sextOut := s.consume_sextOut n _
@[simp] theorem endRead_schedule (n : Nat) : (endRead n s).2.schedule = s.schedule := s.consume_schedule n _

@[simp] theorem transportRead_cfg (n : Nat) : (transportRead n s).2.cfg = s.cfg := endRead_cfg _ n
@[simp] theorem transportRead_st (n : Nat) : (transportRead n s).2.st = s.st := endRead_st _ n
@[simp] theorem transportRead_status (n : Nat) : (transportRead n s).2.status = s.status := endRead_status _ n
@[simp] theorem transportRead_expHdr (n : Nat) : (transportRead n s).2.expHdr = s.expHdr := endRead_expHdr _ n
@[simp] theorem transportRead_hdr (n : Nat) : (transportRead n s).2.hdr = s.hdr := endRead_hdr _ n
@[simp] theorem transportRead_len (n : Nat) : (transportRead n s).2.len = s.len := endRead_len _ n
@[simp] theorem transportRead_cnt (n : Nat) : (transportRead n s).2.cnt = s.cnt := endRead_cnt _ n
@[simp] theorem transportRead_sum (n : Nat) : (transportRead n s).2.sum = s.sum := endRead_sum _ n
@[simp] theorem transportRead_outLen (n : Nat) : (transportRead n s).2.outLen = s.outLen := endRead_outLen _ n
@[simp] theorem transportRead_buf (n : Nat) : (transportRead n s).2.buf = s.buf := endRead_buf _ n
@[simp] theorem transportRead_fld (n : Nat) : (transportRead n s).2.fld = s.fld := endRead_fld _ n
@[simp] theorem transportRead_val (n : Nat) : (transportRead n s).2.val = s.val := endRead_val _ n
@[simp] theorem transportRead_req (n : Nat) : (transportRead n s).2.req = s.req := endRead_req _ n
@[simp] theorem transportRead_rsp (n : Nat) : (transportRead n s).2.rsp = s.rsp := endRead_rsp _ n
@[simp] theorem transportRead_handle (n : Nat) : (transportRead n s).2.handle = s.handle := endRead_handle _ n
@[simp] theorem transportRead_debt (n : Nat) : (transportRead n s).2.debt = s.debt := endRead_debt _ n
@[simp] theorem transportRead_abandoned (n : Nat) : (transportRead n s).2.abandoned = s.abandoned := endRead_abandoned _ n
@[simp] theorem transportRead_sent (n : Nat) : (transportRead n s).2.sent = s.sent := endRead_sent _ n
@[simp] theorem transportRead_tret (n : Nat) : (transportRead n s).2.tret = s.tret := endRead_tret _ n
@[simp] theorem transportRead_sextOut (n : Nat) : (transportRead n s).2.sextOut = s.sextOut := endRead_sextOut _ n
@[simp] theorem transportRead_schedule (n : Nat) : (transportRead n s).2.schedule = s.schedule := endRead_schedule _ n

end Sys2Proof.Machine
end

