-- ==== Sys2Proof/Laws/Ops.lean ====
section
/-! SUPPORT. One lemma per shared operation that says all it can do: sums, register reads, the Transport's read, the
unpacker and the scaler, and a step. -/

namespace Sys2Proof.Machine

/-! ### Sums (spec/00_scope.md R8) -/

@[simp] theorem sum8_nil : sum8 [] = 0 := rfl

@[simp] theorem sum8_cons (x : Byte) (xs : List Byte) : sum8 (x :: xs) = x + sum8 xs := rfl

@[simp] theorem sum8_append (xs ys : List Byte) : sum8 (xs ++ ys) = sum8 xs + sum8 ys := by
  induction xs with
  | nil => simp
  | cons x xs ih => simp [ih, BitVec.add_assoc]

theorem neg8_eq (x : Byte) : neg8 x = -x := (BitVec.neg_eq_not_add x).symm

/-! ### Results -/

@[simp] theorem orFault_ok {α : Type} (a : α) (k : α → Result) : orFault (.ok a) k = k a := rfl

@[simp] theorem orFault_error {α : Type} (f : Fault) (k : α → Result) : orFault (.error f) k = .fault f := rfl

/-- A next state through a read means that the read gave a value. -/
theorem orFault_eq_next {α : Type} {r : Except Fault α} {k : α → Result} {t : State} :
    orFault r k = .next t ↔ ∃ a, r = .ok a ∧ k a = .next t := by
  cases r <;> simp [orFault]

@[simp] theorem readReg_some {α : Type} (r : Reg) (x : α) : readReg r (some x) = .ok x := rfl

@[simp] theorem readReg_none {α : Type} (r : Reg) : readReg r (none : Option α) = .error (.noValue r) := rfl

theorem readReg_eq_ok {α : Type} {r : Reg} {o : Option α} {x : α} : readReg r o = .ok x ↔ o = some x := by
  cases o <;> simp [readReg]

/-- In its own stage a stage operation is its body. -/
@[simp] theorem inStage_same {st : Stage} {s : State} {r : Result} (h : s.st = st) : inStage st s r = r := by
  simp [inStage, h]

theorem inStage_eq_next {st : Stage} {s t : State} {r : Result} : inStage st s r = .next t ↔ s.st = st ∧ r = .next t := by
  unfold inStage
  split <;> simp_all

/-! ### The Transport's read (spec/40_transport.md R92, R100) -/

@[simp] theorem State.consume_ok (s : State) (n : Nat) (bs : List Byte) :
    s.consume n (.ok bs) = { s with wire := s.wire.drop n } := rfl

@[simp] theorem State.consume_unavailable (s : State) (n : Nat) : s.consume n .unavailable = s := rfl

/-- Everything a short read leaves: fewer bytes than asked are gone, under the reference Transport all there were. -/
theorem State.consume_shortRead (s : State) (n : Nat) : ∃ k tick,
    k ≤ s.wire.length ∧ (s.cfg.transport = .oracle → k ≤ n - 1) ∧
    (s.cfg.transport = .reference → k = s.wire.length ∧ tick = s.tick) ∧
    s.consume n .shortRead = { s with wire := s.wire.drop k, tick := tick } := by
  simp only [State.consume]
  split
  · rename_i hr
    exact ⟨s.wire.length, s.tick, Nat.le_refl _, by simp [hr], fun _ => ⟨rfl, rfl⟩, by simp⟩
  · rename_i ho
    have := Nat.le_of_lt_succ (Nat.mod_lt (Config.shortReadTakes s.tick) (Nat.succ_pos (min s.wire.length (n - 1))))
    exact ⟨_, s.tick + 1, this.trans (Nat.min_le_left _ _), fun _ => this.trans (Nat.min_le_right _ _), by simp [ho], rfl⟩

/-- Whatever is answered, the end of a read moves the wire and the counter of free values only. -/
theorem State.consume_moves (s : State) (n : Nat) (a : Answer) :
    s.consume n a = { s with wire := (s.consume n a).wire, tick := (s.consume n a).tick } := by
  cases a with
  | ok bs => rfl
  | shortRead =>
    obtain ⟨k, tick, -, -, -, h⟩ := s.consume_shortRead n
    rw [h]
  | unavailable => rfl

/-- Without a handle a read sets nothing; with one it sets the count. -/
theorem State.setCount_null {s : State} (n : Nat) (h : s.handle = none) : s.setCount n = s := by
  unfold State.setCount
  rw [if_neg (by simp [h])]

theorem State.setCount_open {s : State} (n : Nat) (h : s.handle ≠ none) : s.setCount n = { s with vmin := .count n } := by
  unfold State.setCount
  rw [if_pos (Option.isSome_iff_ne_none.mpr h)]

/-- Everything the end of a read can answer, with the wire afterwards. -/
theorem endRead_cases (n : Nat) (s : State) :
    (s.handle = none ∧ endRead n s = (.unavailable, s)) ∨
    (s.handle ≠ none ∧ n ≤ s.wire.length ∧ endRead n s = (.ok (s.wire.take n), { s with wire := s.wire.drop n })) ∨
    (s.handle ≠ none ∧ s.wire.length < n ∧ ∃ k ≤ s.wire.length, ∃ tick,
      (s.cfg.transport = .reference → k = s.wire.length ∧ tick = s.tick) ∧
      endRead n s = (.shortRead, { s with wire := s.wire.drop k, tick := tick })) := by
  unfold endRead readAnswer
  split
  · rename_i h
    exact .inl ⟨h, rfl⟩
  · rename_i p h
    split
    · exact .inr (.inl ⟨by simp [h], ‹_›, rfl⟩)
    · obtain ⟨k, tick, hk, -, hr, he⟩ := s.consume_shortRead n
      exact .inr (.inr ⟨by simp [h], by omega, k, hk, tick, hr, by rw [he]⟩)

/-- Everything a whole read can answer, with the setting and the wire afterwards. -/
theorem transportRead_cases (n : Nat) (s : State) :
    (s.handle = none ∧ transportRead n s = (.unavailable, s)) ∨
    (s.handle ≠ none ∧ n ≤ s.wire.length ∧
      transportRead n s = (.ok (s.wire.take n), { s with vmin := .count n, wire := s.wire.drop n })) ∨
    (s.handle ≠ none ∧ s.wire.length < n ∧ ∃ k ≤ s.wire.length, ∃ tick,
      (s.cfg.transport = .reference → k = s.wire.length ∧ tick = s.tick) ∧
      transportRead n s = (.shortRead, { s with vmin := .count n, wire := s.wire.drop k, tick := tick })) := by
  unfold transportRead
  by_cases h : s.handle = none
  · rw [State.setCount_null n h]
    rcases endRead_cases n s with ⟨_, he⟩ | ⟨g, _⟩ | ⟨g, _⟩
    · exact .inl ⟨h, he⟩
    · exact absurd h g
    · exact absurd h g
  · rw [State.setCount_open n h]
    rcases endRead_cases n { s with vmin := .count n } with ⟨g, _⟩ | ⟨_, hn, he⟩ | ⟨_, hn, hk⟩
    · exact absurd g h
    · exact .inr (.inl ⟨h, hn, he⟩)
    · exact .inr (.inr ⟨h, hn, hk⟩)

/-- The answer to a read of `n` bytes fits it (R92). -/
theorem endRead_fits (n : Nat) (s : State) : (endRead n s).1.fits n = true := by
  rcases endRead_cases n s with ⟨_, h⟩ | ⟨_, hn, h⟩ | ⟨_, _, k, _, tick, _, h⟩ <;> rw [h] <;>
    simp [Answer.fits]
  omega

theorem transportRead_fits (n : Nat) (s : State) : (transportRead n s).1.fits n = true := endRead_fits n (s.setCount n)

/-! ### The unpacker and the scaler (spec/42_payload_unpacker.md R141, spec/43_scaling.md R170) -/

/-- `SEXT24` is the sign extension of a 24-bit value to 32 bits (R142, R8). -/
theorem sext24_eq (raw : Raw) : sext24 raw = raw.signExtend 32 := by
  apply BitVec.eq_of_getLsbD_eq
  intro i hi
  unfold sext24
  rw [BitVec.getLsbD_signExtend]
  cases h : raw.getLsbD 23 <;> interval_cases i <;> simp_all [BitVec.msb_eq_getLsbD_last]

/-- The integer that `SEXT24` gives (R142): two's complement of 24 bits. -/
theorem sext24_toInt (raw : Raw) : (sext24 raw).toInt = raw.toInt := by
  rw [sext24_eq, BitVec.toInt_signExtend_of_le (by omega)]

/-- The raw field as the spec's sum of bytes (R43). -/
theorem rawOf_toNat (b0 b1 b2 : Byte) : (rawOf b0 b1 b2).toNat = b0.toNat + 256 * b1.toNat + 65536 * b2.toNat := by
  have h1 : (b2 ++ b1 : BitVec 16).toNat = b2.toNat * 256 + b1.toNat := by
    have := BitVec.toNat_append b2 b1
    rw [Nat.shiftLeft_eq, Nat.mul_comm, ← Nat.two_pow_add_eq_or_of_lt b1.isLt] at this
    simpa [Nat.mul_comm] using this
  have := BitVec.toNat_append (b2 ++ b1 : BitVec 16) b0
  rw [Nat.shiftLeft_eq, Nat.mul_comm, ← Nat.two_pow_add_eq_or_of_lt b0.isLt, h1] at this
  change (rawOf b0 b1 b2).toNat = _ at this
  omega

theorem rawField_eq {m : Memory} {k : Fin 9} {b0 b1 b2 : Byte} (h0 : Memory.readByte m (3 * k.val) = .ok b0)
    (h1 : Memory.readByte m (3 * k.val + 1) = .ok b1) (h2 : Memory.readByte m (3 * k.val + 2) = .ok b2) :
    rawField m k = .ok (rawOf b0 b1 b2) := by
  simp [rawField, h0, h1, h2]

/-- A field is formed exactly when its three bytes hold values. -/
theorem rawField_eq_ok {m : Memory} {k : Fin 9} {raw : Raw} :
    rawField m k = .ok raw ↔ ∃ b0 b1 b2, Memory.readByte m (3 * k.val) = .ok b0 ∧
      Memory.readByte m (3 * k.val + 1) = .ok b1 ∧ Memory.readByte m (3 * k.val + 2) = .ok b2 ∧
      raw = rawOf b0 b1 b2 := by
  constructor
  · intro h
    unfold rawField at h
    split at h <;> cases h
    rename_i b0 b1 b2 h0 h1 h2
    exact ⟨b0, b1, b2, h0, h1, h2, rfl⟩
  · rintro ⟨b0, b1, b2, h0, h1, h2, rfl⟩
    exact rawField_eq h0 h1 h2

/-- `EXTRACT k` writes `fld[k]` and nothing else. -/
theorem extractInto_eq_ok {k : Fin 9} {s t : State} :
    extractInto k s = .ok t ↔ ∃ raw, rawField s.buf k = .ok raw ∧ t = s.setFld k (sext24 raw) := by
  unfold extractInto
  cases h : rawField s.buf k <;> simp [eq_comm]

/-- `SCALE k` writes `val[k]` and nothing else. -/
theorem scaleInto_eq_ok {j : Fin 7} {s t : State} :
    scaleInto j s = .ok t ↔
      ∃ v, s.fld[j.val + 2]'(by omega) = some v ∧ t = s.setVal j (scaleFn s.cfg.scale j v) := by
  unfold scaleInto scaleSource
  cases h : s.fld[j.val + 2]'(by omega) <;> simp [readReg, eq_comm]

/-- Two states that differ at most in `fld` and `val`. -/
def SameButFields (s t : State) : Prop := t = { s with fld := t.fld, val := t.val }

theorem SameButFields.refl (s : State) : SameButFields s s := rfl

theorem SameButFields.trans {s t u : State} (h : SameButFields s t) (g : SameButFields t u) : SameButFields s u := by
  unfold SameButFields at *
  rw [g, h]

theorem extractInto_same {k : Fin 9} {s t : State} (h : extractInto k s = .ok t) : SameButFields s t := by
  obtain ⟨raw, _, rfl⟩ := extractInto_eq_ok.mp h
  rfl

theorem scaleInto_same {j : Fin 7} {s t : State} (h : scaleInto j s = .ok t) : SameButFields s t := by
  obtain ⟨v, _, rfl⟩ := scaleInto_eq_ok.mp h
  rfl

/-- A loop of operations that change only the fields changes only the fields. -/
theorem forEach_same {ι : Type} {f : ι → State → Except Fault State} (hf : ∀ k s t, f k s = .ok t → SameButFields s t)
    {ks : List ι} {s t : State} (h : forEach f ks s = .ok t) : SameButFields s t := by
  induction ks generalizing s with
  | nil => cases h; exact .refl _
  | cons k ks ih =>
    simp only [forEach] at h
    split at h
    · exact (hf _ _ _ ‹_›).trans (ih h)
    · cases h

/-- A loop whose operation is `g` wherever `P` holds, and keeps `P`, is the fold of `g`. -/
theorem forEach_eq_foldl {ι : Type} {f : ι → State → Except Fault State} {g : State → ι → State} {P : State → Prop}
    (hf : ∀ k u, P u → f k u = .ok (g u k) ∧ P (g u k)) (ks : List ι) {s : State} (hs : P s) :
    forEach f ks s = .ok (ks.foldl g s) := by
  induction ks generalizing s with
  | nil => rfl
  | cons k ks ih =>
    obtain ⟨h, hp⟩ := hf k s hs
    simp only [forEach, h, List.foldl_cons, ih hp]

theorem foldl_setFld (v : Vector Word 9) (ks : List (Fin 9)) (s : State) :
    ks.foldl (fun u k => u.setFld k v[k.val]) s =
      { s with fld := ks.foldl (fun f k => f.set k.val (some v[k.val])) s.fld } := by
  induction ks generalizing s with
  | nil => rfl
  | cons k ks ih => rw [List.foldl_cons, ih]; rfl

theorem foldl_setVal (x : Fin 7 → F32) (js : List (Fin 7)) (s : State) :
    js.foldl (fun u j => u.setVal j (x j)) s =
      { s with val := js.foldl (fun f j => f.set j.val (some (x j))) s.val } := by
  induction js generalizing s with
  | nil => rfl
  | cons j js ih => rw [List.foldl_cons, ih]; rfl

theorem foldl_set_nine (v : Vector Word 9) (f : Vector (Option Word) 9) :
    ([0, 1, 2, 3, 4, 5, 6, 7, 8] : List (Fin 9)).foldl (fun f k => f.set k.val (some v[k.val])) f = v.map some := by
  ext1 i hi
  interval_cases i <;> simp

theorem foldl_set_seven (x : Fin 7 → F32) (f : Vector (Option F32) 7) :
    ([0, 1, 2, 3, 4, 5, 6] : List (Fin 7)).foldl (fun f j => f.set j.val (some (x j))) f =
      Vector.ofFn fun j => some (x j) := by
  ext1 i hi
  interval_cases i <;> simp

/-- Nine extractions from a buffer whose bytes give the fields `v`. -/
theorem forEach_extractInto {s : State} {v : Vector Word 9}
    (h : ∀ k : Fin 9, ∃ raw, rawField s.buf k = .ok raw ∧ sext24 raw = v[k.val]) :
    forEach extractInto [0, 1, 2, 3, 4, 5, 6, 7, 8] s = .ok { s with fld := v.map some } := by
  have := forEach_eq_foldl (f := extractInto) (g := fun u k => u.setFld k v[k.val]) (P := fun u => u.buf = s.buf)
    (fun k u hu => by
      obtain ⟨raw, hr, hv⟩ := h k
      exact ⟨extractInto_eq_ok.mpr ⟨raw, hu ▸ hr, by rw [hv]⟩, hu⟩)
    [0, 1, 2, 3, 4, 5, 6, 7, 8] (s := s) rfl
  rw [this, foldl_setFld, foldl_set_nine]

/-- Seven scalings of nine fields that hold values. -/
theorem forEach_scaleInto {s : State} {v : Vector Word 9} (h : s.fld = v.map some) :
    forEach scaleInto [0, 1, 2, 3, 4, 5, 6] s = .ok { s with val := scaled s.cfg.scale v } := by
  have := forEach_eq_foldl (f := scaleInto)
    (g := fun u j => u.setVal j (scaleFn s.cfg.scale j (v[j.val + 2]'(by omega))))
    (P := fun u => u.fld = v.map some ∧ u.cfg = s.cfg)
    (fun j u hu => ⟨scaleInto_eq_ok.mpr ⟨v[j.val + 2]'(by omega), by simp [hu.1], by rw [hu.2]⟩, hu⟩)
    [0, 1, 2, 3, 4, 5, 6] (s := s) ⟨h, rfl⟩
  rw [this, foldl_setVal _ _ s, foldl_set_seven]
  rfl

/-- `UNPACK` changes only `fld` and `val`. -/
theorem unpackInto_same {s t : State} (h : unpackInto s = .ok t) : SameButFields s t := by
  unfold unpackInto at h
  split at h
  · cases h
  · split at h
    · split at h
      · rename_i u hu
        exact (forEach_same (fun _ _ _ => extractInto_same) hu).trans (forEach_same (fun _ _ _ => scaleInto_same) h)
      · cases h
    · cases h; rfl

/-- With a payload that is not 27 bytes, `UNPACK` clears every field and value (R141). -/
theorem unpackInto_short {s : State} {n : Byte} (h : s.outLen = some n) (hn : n ≠ 27) :
    unpackInto s = .ok { s with fld := Vector.replicate 9 none, val := Vector.replicate 7 none } := by
  have hn' : ¬n = Config.payloadLen := hn
  simp [unpackInto, h, hn']

/-- With a 27-byte payload in the buffer, `UNPACK` writes all nine fields and all seven values (R141). -/
theorem unpackInto_full {s : State} {p : List Byte} {v : Vector Word 9} (h : s.outLen = some 27)
    (hp : Memory.read s.buf 0 27 = .ok p) (hv : unpackPayload p = some v) :
    unpackInto s = .ok { s with fld := v.map some, val := scaled s.cfg.scale v } := by
  obtain ⟨hl, hr⟩ := Memory.read_eq_ok.mp hp
  have hb : ∀ i (hi : i < 27), Memory.readByte s.buf i = .ok (p.getD i 0) := fun i hi => by
    have := hr i (by omega)
    rw [Nat.zero_add] at this
    rw [this, List.getD_eq_getElem _ _ (by omega)]
  simp only [unpackPayload, hl, if_true, Option.some.injEq] at hv
  have hf := forEach_extractInto (s := s) (v := v) fun k =>
    ⟨_, rawField_eq (hb _ (by omega)) (hb _ (by omega)) (hb _ (by omega)), by simp [← hv]⟩
  unfold unpackInto
  simp only [h, readReg_some, hf]
  exact forEach_scaleInto rfl

end Sys2Proof.Machine
end

