-- ==== Sys2Proof/Laws/PerInstr.lean ====
section
/-! SUPPORT. A statement about every operation as syntax, one lemma per constructor: the shape of the bits that encode it
(spec/30_encoding.md R61, R69, R74). -/

namespace Sys2Proof

/-- The bytes of a frame whose length byte counts them are well sized (R72). -/
theorem wellSized_frameBytes {h l : Byte} {data : List Byte} (c : Byte) (hd : data.length + 3 = l.toNat) :
    Machine.wellSized (frameBytes h l data c) = true := by
  simp only [frameBytes, Machine.wellSized, decide_eq_true_eq, List.length_cons, List.length_append, List.length_nil]
  omega

/-- A telemetry report is 30 bytes long, as its length byte says (R66). -/
theorem wellSized_telemetry {data : List Byte} (c : Byte) (hd : data.length = 27) :
    Machine.wellSized (frameBytes Config.telemetryHeader Config.telemetryLen data c) = true :=
  wellSized_frameBytes c (by rw [hd]; rfl)

namespace Laws.EncodedShape

/-- A command word has the opcode of `START`; wire bytes are as many as their second byte says; every other operation has
no bits. -/
def Statement (i : Instr) : Prop :=
  i.wf = true → ∀ x, encode i = some x →
    (∃ w, x = .command w ∧ w.extractLsb' 8 8 = Config.startOp) ∨ ∃ bs, x = .wire bs ∧ Machine.wellSized bs = true

theorem start (e : Byte) : Statement (.start e) := by
  intro _ x hx
  cases hx
  exact .inl ⟨_, rfl, startWord_op e⟩

theorem awaitHeader (a : Answer) : Statement (.awaitHeader a) := by
  intro _ x hx
  cases hx

theorem awaitLength (a : Answer) : Statement (.awaitLength a) := by
  intro _ x hx
  cases hx

theorem awaitPayload (a : Answer) : Statement (.awaitPayload a) := by
  intro _ x hx
  cases hx

theorem validate : Statement .validate := by
  intro _ x hx
  cases hx

theorem headerCheck : Statement .headerCheck := by
  intro _ x hx
  cases hx

theorem success : Statement .success := by
  intro _ x hx
  cases hx

theorem unpack : Statement .unpack := by
  intro _ x hx
  cases hx

theorem sext24 (raw : Raw) : Statement (.sext24 raw) := by
  intro _ x hx
  cases hx

theorem extract0 : Statement .extract0 := by
  intro _ x hx
  cases hx

theorem extract1 : Statement .extract1 := by
  intro _ x hx
  cases hx

theorem extract2 : Statement .extract2 := by
  intro _ x hx
  cases hx

theorem extract3 : Statement .extract3 := by
  intro _ x hx
  cases hx

theorem extract4 : Statement .extract4 := by
  intro _ x hx
  cases hx

theorem extract5 : Statement .extract5 := by
  intro _ x hx
  cases hx

theorem extract6 : Statement .extract6 := by
  intro _ x hx
  cases hx

theorem extract7 : Statement .extract7 := by
  intro _ x hx
  cases hx

theorem extract8 : Statement .extract8 := by
  intro _ x hx
  cases hx

theorem scale2 : Statement .scale2 := by
  intro _ x hx
  cases hx

theorem scale3 : Statement .scale3 := by
  intro _ x hx
  cases hx

theorem scale4 : Statement .scale4 := by
  intro _ x hx
  cases hx

theorem scale5 : Statement .scale5 := by
  intro _ x hx
  cases hx

theorem scale6 : Statement .scale6 := by
  intro _ x hx
  cases hx

theorem scale7 : Statement .scale7 := by
  intro _ x hx
  cases hx

theorem scale8 : Statement .scale8 := by
  intro _ x hx
  cases hx

theorem tOpen (path : List Byte) (opens : Bool) : Statement (.tOpen path opens) := by
  intro _ x hx
  cases hx

theorem tRead (n : Nat) : Statement (.tRead n) := by
  intro _ x hx
  cases hx

theorem tWrite (bs : List Byte) (taken : Nat) : Statement (.tWrite bs taken) := by
  intro _ x hx
  cases hx

theorem tReset : Statement .tReset := by
  intro _ x hx
  cases hx

theorem tClose : Statement .tClose := by
  intro _ x hx
  cases hx

theorem reset : Statement .reset := by
  intro _ x hx
  cases hx

theorem frame (h l : Byte) (data : List Byte) (c : Byte) : Statement (.frame h l data c) := by
  intro hw x hx
  cases hx
  simp only [Instr.wf, Bool.and_eq_true, decide_eq_true_eq] at hw
  exact .inr ⟨_, rfl, wellSized_frameBytes c hw.1.2⟩

theorem telemetryReport (data : List Byte) (c : Byte) : Statement (.telemetryReport data c) := by
  intro hw x hx
  cases hx
  exact .inr ⟨_, rfl, wellSized_telemetry c (by simpa [Instr.wf] using hw)⟩

end Laws.EncodedShape

end Sys2Proof
end

