-- ==== Sys2Proof/Laws/Step.lean ====
section
/-! SUPPORT. What each operation can do, once: an inversion lemma per operation that has a condition, and what a step is
in each case of its selection. -/

namespace Sys2Proof.Machine

/-! ### The operation families -/

theorem exec_extract (k : Fin 9) (s : State) : exec (Instr.extract k) s = orFault (extractInto k s) .next := by
  fin_cases k <;> rfl

theorem exec_scale (j : Fin 7) (s : State) : exec (Instr.scale j) s = orFault (scaleInto j s) .next := by
  fin_cases j <;> rfl

/-- An operation that is an extraction writes its field; one that is a scaling, its value. -/
theorem orFault_next_eq {r : Except Fault State} {t : State} : orFault r .next = .next t ↔ r = .ok t := by
  rw [orFault_eq_next]
  simp

/-! ### What an operation that answers a next state has done -/

theorem execStart_next {e : Byte} {s t : State} (h : execStart e s = .next t) :
    (s.busy = true ∧ t = s) ∨ (s.busy = false ∧ t = s.begin e) := by
  unfold execStart at h
  split at h <;> simp_all

theorem execAwaitHeader_next {a : Answer} {s t : State} (h : execAwaitHeader a s = .next t) :
    s.st = .awaitHeader ∧
      ((∃ b, a = .ok [b] ∧ t = State.issue { s with hdr := some b, sum := some b, st := .awaitLength } 1) ∨
        (a = .shortRead ∧ t = s.answered.raise .timeout) ∨ (a = .unavailable ∧ t = s.answered.raise .noDevice)) := by
  obtain ⟨hs, h⟩ := inStage_eq_next.mp h
  refine ⟨hs, ?_⟩
  split at h <;> simp_all

theorem execAwaitLength_next {a : Answer} {s t : State} (h : execAwaitLength a s = .next t) :
    s.st = .awaitLength ∧
      ((∃ b sm, a = .ok [b] ∧ s.sum = some sm ∧ b.toNat < Config.lenMin ∧
          t = State.raise { s.answered with len := some b, sum := some (sm + b) } .malformedPayload) ∨
        (∃ b sm, a = .ok [b] ∧ s.sum = some sm ∧ Config.lenMin ≤ b.toNat ∧
          t = State.issue
            { s.answered with len := some b, sum := some (sm + b), cnt := some (b - 2), st := .awaitPayload }
            (b.toNat - 2)) ∨
        ((a = .shortRead ∨ a = .unavailable) ∧ t = s.answered.raise .timeout)) := by
  obtain ⟨hs, h⟩ := inStage_eq_next.mp h
  refine ⟨hs, ?_⟩
  split at h
  · rename_i b _
    obtain ⟨sm, hsm, h⟩ := orFault_eq_next.mp h
    rw [readReg_eq_ok] at hsm
    simp only at h
    split at h
    · exact .inl ⟨b, sm, rfl, hsm, ‹_›, by cases h; rfl⟩
    · exact .inr (.inl ⟨b, sm, rfl, hsm, by omega, by cases h; rfl⟩)
  · cases h
  · exact .inr (.inr ⟨.inl rfl, by cases h; rfl⟩)
  · exact .inr (.inr ⟨.inr rfl, by cases h; rfl⟩)

theorem execAwaitPayload_next {a : Answer} {s t : State} (h : execAwaitPayload a s = .next t) :
    s.st = .awaitPayload ∧
      ((∃ bs c sm, a = .ok bs ∧ s.cnt = some c ∧ bs.length = c.toNat ∧ s.sum = some sm ∧
          bs.length ≤ Config.bufDepth ∧
          t = { s.answered with
            buf := Memory.setBytes s.buf 0 bs, sum := some (sm + sum8 bs), st := .validate }) ∨
        ((a = .shortRead ∨ a = .unavailable) ∧ t = s.answered.raise .timeout)) := by
  obtain ⟨hs, h⟩ := inStage_eq_next.mp h
  refine ⟨hs, ?_⟩
  split at h
  · rename_i bs _
    obtain ⟨c, hc, h⟩ := orFault_eq_next.mp h
    split at h
    · obtain ⟨sm, hsm, h⟩ := orFault_eq_next.mp h
      obtain ⟨m, hm, h⟩ := orFault_eq_next.mp h
      rw [readReg_eq_ok] at hc hsm
      unfold Memory.write at hm
      split at hm
      · cases hm
        exact .inl ⟨bs, c, sm, rfl, hc, ‹_›, hsm, by omega, by cases h; rfl⟩
      · cases hm
    · cases h
  · exact .inr ⟨.inl rfl, by cases h; rfl⟩
  · exact .inr ⟨.inr rfl, by cases h; rfl⟩

theorem execValidate_next {s t : State} (h : execValidate s = .next t) :
    s.st = .validate ∧ ∃ sm, s.sum = some sm ∧
      ((sm = 0 ∧ t = { s with st := .headerCheck }) ∨ (sm ≠ 0 ∧ t = s.raise .checksumMismatch)) := by
  obtain ⟨hs, h⟩ := inStage_eq_next.mp h
  obtain ⟨sm, hsm, h⟩ := orFault_eq_next.mp h
  rw [readReg_eq_ok] at hsm
  refine ⟨hs, sm, hsm, ?_⟩
  split at h <;> cases h
  · exact .inl ⟨‹_›, rfl⟩
  · exact .inr ⟨‹_›, rfl⟩

theorem execHeaderCheck_next {s t : State} (h : execHeaderCheck s = .next t) :
    s.st = .headerCheck ∧ ∃ x e, s.hdr = some x ∧ s.expHdr = some e ∧
      ((x = e ∧ t = { s with st := .success }) ∨ (x ≠ e ∧ t = s.raise .unexpectedHeader)) := by
  obtain ⟨hs, h⟩ := inStage_eq_next.mp h
  obtain ⟨x, hx, h⟩ := orFault_eq_next.mp h
  obtain ⟨e, he, h⟩ := orFault_eq_next.mp h
  rw [readReg_eq_ok] at hx he
  refine ⟨hs, x, e, hx, he, ?_⟩
  split at h <;> cases h
  · exact .inl ⟨‹_›, rfl⟩
  · exact .inr ⟨‹_›, rfl⟩

theorem execSuccess_next {s t : State} (h : execSuccess s = .next t) :
    s.st = .success ∧ ∃ l u, s.len = some l ∧ unpackInto { s with outLen := some (l - 3), status := .ok } = .ok u ∧
      SameButFields { s with outLen := some (l - 3), status := .ok } u ∧ t = { u with st := .done } := by
  obtain ⟨hs, h⟩ := inStage_eq_next.mp h
  obtain ⟨l, hl, h⟩ := orFault_eq_next.mp h
  obtain ⟨u, hu, h⟩ := orFault_eq_next.mp h
  rw [readReg_eq_ok] at hl
  exact ⟨hs, l, u, hl, hu, unpackInto_same hu, by cases h; rfl⟩

/-- Stage 6 with its length in hand is `UNPACK` and then `Done` (R117). -/
theorem execSuccess_eq {s u : State} {l : Byte} (h : s.st = .success) (hl : s.len = some l)
    (hu : unpackInto { s with outLen := some (l - 3), status := .ok } = .ok u) :
    execSuccess s = .next { u with st := .done } := by
  unfold execSuccess
  rw [inStage_same h, show readReg .len s.len = .ok l by rw [hl]; rfl, orFault_ok, hu, orFault_ok]

/-- Stage 3 with a whole body in hand (R114). -/
theorem execAwaitPayload_eq {s : State} {c sm : Byte} {bs : List Byte} (h : s.st = .awaitPayload)
    (hc : s.cnt = some c) (hs : s.sum = some sm) (hb : bs.length = c.toNat) (hl : bs.length ≤ Config.bufDepth) :
    execAwaitPayload (.ok bs) s =
      .next { s.answered with buf := Memory.setBytes s.buf 0 bs, sum := some (sm + sum8 bs), st := .validate } := by
  unfold execAwaitPayload
  rw [inStage_same h]
  simp only
  rw [show readReg .cnt s.cnt = .ok c by rw [hc]; rfl, orFault_ok, if_pos hb,
    show readReg .sum s.sum = .ok sm by rw [hs]; rfl, orFault_ok, Memory.write_eq (by omega), orFault_ok]

/-- Stage 2 with a length byte in hand (R113). -/
theorem execAwaitLength_eq {s : State} {sm : Byte} (b : Byte) (h : s.st = .awaitLength) (hs : s.sum = some sm) :
    execAwaitLength (.ok [b]) s =
      if b.toNat < Config.lenMin then
        .next (State.raise { s.answered with len := some b, sum := some (sm + b) } .malformedPayload)
      else
        .next (State.issue
          { s.answered with len := some b, sum := some (sm + b), cnt := some (b - 2), st := .awaitPayload }
          (b.toNat - 2)) := by
  unfold execAwaitLength
  rw [inStage_same h]
  simp only
  rw [show readReg .sum s.sum = .ok sm by rw [hs]; rfl, orFault_ok]

/-- Stage 4 with a sum in hand (R115). -/
theorem execValidate_eq {s : State} {sm : Byte} (h : s.st = .validate) (hs : s.sum = some sm) :
    execValidate s = if sm = 0 then .next { s with st := .headerCheck } else .next (s.raise .checksumMismatch) := by
  unfold execValidate
  rw [inStage_same h, show readReg .sum s.sum = .ok sm by rw [hs]; rfl, orFault_ok]

/-- Stage 5 with both headers in hand (R116). -/
theorem execHeaderCheck_eq {s : State} {x e : Byte} (h : s.st = .headerCheck) (hx : s.hdr = some x)
    (he : s.expHdr = some e) :
    execHeaderCheck s = if x = e then .next { s with st := .success } else .next (s.raise .unexpectedHeader) := by
  unfold execHeaderCheck
  rw [inStage_same h, show readReg .hdr s.hdr = .ok x by rw [hx]; rfl, orFault_ok,
    show readReg .expHdr s.expHdr = .ok e by rw [he]; rfl, orFault_ok]

theorem execTRead_next {n : Nat} {s t : State} (h : execTRead n s = .next t) :
    n ≠ 0 ∧
      ((s.busy = true ∧ s.req = some n ∧ s.rsp = none ∧
          t = { (endRead n s).2 with rsp := some (endRead n s).1 }) ∨
        (s.busy = false ∧ t = { (transportRead n s).2 with tret := .read (transportRead n s).1 })) := by
  unfold execTRead at h
  split at h
  · cases h
  · refine ⟨‹_›, ?_⟩
    split at h
    · split at h
      · rename_i hb hr
        cases h
        exact .inl ⟨hb, hr.1, hr.2, rfl⟩
      · cases h
    · cases h
      exact .inr ⟨by simp_all, rfl⟩

/-- The caller's and the device's operations change the environment and the model's own fields only. -/
theorem execTOpen_next {p : List Byte} {o : Bool} {s t : State} (h : execTOpen p o s = .next t) :
    t = { s with handle := t.handle, tret := t.tret } := by
  unfold execTOpen at h
  split at h <;> cases h <;> rfl

theorem execTWrite_next {bs : List Byte} {n : Nat} {s t : State} (h : execTWrite bs n s = .next t) :
    t = { s with sent := t.sent, tret := t.tret } := by
  unfold execTWrite at h
  split at h <;> cases h <;> rfl

/-! ### A step, by what it selects (spec/30_encoding.md R74) -/

theorem step_run {s t : State} {i : Instr} (h : fetch s = .run i t) : step s = exec i t := by
  simp [step, h]

theorem step_stay {s t : State} (h : fetch s = .stay t) : step s = .next t := by
  simp [step, h]

theorem step_refuse {s : State} {r : Refusal} (h : fetch s = .refuse r) : step s = .refused r := by
  simp [step, h]

theorem fetch_nil {s : State} (h : s.schedule = []) : fetch s = selectBlock s := by
  simp [fetch, h]

/-- Where the block's turn is not an unshared one the first act of the schedule is taken. -/
theorem fetch_cons {s : State} {ev : Event} {rest : List Event} (h : s.schedule = ev :: rest) (hi : s.unshared = false) :
    fetch s = selectEvent ev { s with schedule := rest } := by
  simp [fetch, h, hi]

/-- The block's own turn and `RESET` are taken in every stage (R118, R230). -/
theorem fetch_cutsIn {s : State} {ev : Event} {rest : List Event} (h : s.schedule = ev :: rest) (he : ev.cutsIn = true) :
    fetch s = selectEvent ev { s with schedule := rest } := by
  simp [fetch, h, he]

/-- On the block's unshared turn no other act is taken (R118, R100). -/
theorem fetch_unshared {s : State} (hi : s.unshared = true) (h : ∀ ev rest, s.schedule = ev :: rest → ev.cutsIn = false) :
    fetch s = selectBlock s := by
  unfold fetch
  split
  · rfl
  · simp [hi, h _ _ ‹_›]

/-- Busy is waiting or in an internal stage (R13, R21). -/
theorem State.busy_eq (s : State) : s.busy = (s.waiting || s.inside) := by
  unfold State.busy State.waiting State.inside
  cases s.st <;> rfl

/-- At rest no turn is an unshared one. -/
theorem State.unshared_of_rest {s : State} (h : s.busy = false) : s.unshared = false := by
  rw [State.busy_eq, Bool.or_eq_false_iff] at h
  simp [State.unshared, State.servedAtOnce, h.1, h.2]

/-- Waiting for the oracle is no unshared turn. -/
theorem State.unshared_of_oracle {s : State} (h : s.inside = false) (hc : s.cfg.transport = .oracle) :
    s.unshared = false := by
  simp [State.unshared, State.servedAtOnce, h, hc]

/-- A command word that decodes is run (R69). -/
theorem step_cmd {s : State} {w : Half} {rest : List Event} {i : Instr} (h : s.schedule = .cmd w :: rest)
    (hi : s.unshared = false) (hd : decodeCommand w = .ok i) : step s = exec i { s with schedule := rest } :=
  step_run (by rw [fetch_cons h hi]; simp [selectEvent, hd])

/-- Bytes that are one frame are run as that frame (R61). -/
theorem step_wire {s : State} {bs : List Byte} {rest : List Event} {i : Instr} (h : s.schedule = .wire bs :: rest)
    (hi : s.unshared = false) (hd : decodeFrame bs = .ok (i, [])) : step s = exec i { s with schedule := rest } :=
  step_run (by rw [fetch_cons h hi]; simp [selectEvent, selectWire, hd])

/-- The block at rest takes no step of its own (R202, R232). -/
theorem step_rest {s : State} (h : s.schedule = []) (hb : s.busy = false) : step s = .next s := by
  apply step_stay
  rw [fetch_nil h]
  simp only [State.busy, Bool.and_eq_false_imp, bne_iff_ne, ne_eq, bne_eq_false_iff_eq] at hb
  unfold selectBlock
  split <;> simp_all

end Sys2Proof.Machine
end

