-- ==== Sys2Proof/Tests/Slice0.lean ====
section
/-! SUPPORT. The model's own tests: ill-formed operations refused, words written out from spec/30_encoding.md, one step of
each operation on a small state with the results of spec/95_test_vectors.md, and a witness for the hypotheses of each
statement of Certificates/Slice0/Obligations.lean. -/

namespace Sys2Proof.Tests

open Sys2Proof.Machine

set_option maxRecDepth 8000

/-! ### Small states -/

/-- The state an outcome goes on with. -/
def after (r : Host.Outcome State Fault Refusal) : Option State :=
  match r with
  | .next t => some t
  | .fault _ => none
  | .refused _ => none

/-- What one step of `i` leaves in what `f` reads. -/
def got {α : Type} (i : Instr) (s : State) (f : State → α) : Option α := (after (exec i s)).map f

/-- A register that a step has left without a value. -/
def bottom {α : Type} : Option (Option α) := some none

/-- An outcome that `after` reads is a next state. -/
theorem runs {r : Host.Outcome State Fault Refusal} (h : (after r).isSome = true) : ∃ t, r = .next t := by
  cases r with
  | next t => exact ⟨t, rfl⟩
  | fault _ => cases h
  | refused _ => cases h

/-- The fault an outcome is. -/
def faultOf (r : Host.Outcome State Fault Refusal) : Option Fault :=
  match r with
  | .next _ => none
  | .fault f => some f
  | .refused _ => none

/-- The refusal an outcome is. -/
def refusalOf (r : Host.Outcome State Fault Refusal) : Option Refusal :=
  match r with
  | .next _ => none
  | .fault _ => none
  | .refused x => some x

/-- The instruction a decoder gave. -/
def read? {ε α : Type} (r : Except ε α) : Option α := r.toOption

/-- After `START e`. -/
def started (e : Byte) : State := State.reset.begin e

/-- In stage 2, with the header byte `h` received. -/
def headed (e h : Byte) : State :=
  { started e with st := .awaitLength, hdr := some h, sum := some h }

/-- In stage 3, with the length byte `l` received too. -/
def sized (e h l : Byte) : State :=
  { headed e h with
    st := .awaitPayload, len := some l, cnt := some (l - 2), sum := some (h + l), req := some (l.toNat - 2) }

/-- In stage `st` with the whole frame received. -/
def whole (st : Stage) (e h l : Byte) (body : List Byte) : State :=
  { sized e h l with
    st := st, buf := Memory.setBytes [] 0 body, sum := some (sum8 (h :: l :: body)), req := none }

/-- In `Done` after a failure. -/
def failed (k : Failure) : State := { started 0xAE with st := .done, status := .failed k, req := none }

/-- An open reference Transport with bytes on the wire, the block at rest. -/
def openRef (w : List Byte) : State :=
  { State.reset with cfg := { transport := .reference, scale := .exact }, handle := some [0x2F], wire := w }

/-- The payload of vector V1. -/
def v1 : List Byte :=
  [0xDC, 0x4C, 0x00, 0xC1, 0xAC, 0xFF, 0xDD, 0xA8, 0x03, 0x51, 0x11, 0x00, 0xE9, 0xFF, 0xFF, 0xEC, 0xFF, 0xFF,
    0xF2, 0xFF, 0xFF, 0x85, 0xC1, 0x00, 0x00, 0x00, 0x00]

/-- The fields of V1 (spec/95_test_vectors.md section 3). -/
def v1Fields : Vector Word 9 := #v[19676, -21311, 239837, 4433, -23, -20, -14, 49541, 0]

/-- V1's payload in the buffer, as stage 6 of V1 finds it. -/
def v1State : State := whole .success 0xAE 0xAE 0x1E (v1 ++ [0xAF])

/-- One field register set. -/
def withField (k : Fin 9) (v : Word) : State := State.reset.setFld k v

/-! ### Well-formedness: one ill-formed operation for each check, and its neighbour that is well formed -/

theorem test_wf_header_answer : (Instr.awaitHeader (.ok [])).wf = false ∧ (Instr.awaitHeader (.ok [1])).wf = true := by
  decide

theorem test_wf_length_answer : (Instr.awaitLength (.ok [1, 2])).wf = false ∧ (Instr.awaitLength (.ok [1])).wf = true := by
  decide

theorem test_wf_payload_answer : (Instr.awaitPayload (.ok [])).wf = false ∧
    (Instr.awaitPayload (.ok (List.replicate 254 0))).wf = false ∧
    (Instr.awaitPayload (.ok (List.replicate 253 0))).wf = true := by decide

theorem test_wf_read : (Instr.tRead 0).wf = false ∧ (Instr.tRead 254).wf = false ∧ (Instr.tRead 253).wf = true := by
  decide

theorem test_wf_write : (Instr.tWrite [1, 2] 3).wf = false ∧ (Instr.tWrite [1, 2] 2).wf = true := by decide

theorem test_wf_frame_length : (Instr.frame 0xAE 2 [] 0x50).wf = false ∧ (Instr.frame 0xAE 3 [] 0x4F).wf = true := by
  decide

theorem test_wf_frame_size : (Instr.frame 0xAE 4 [1, 2] 0).wf = false ∧ (Instr.frame 0xAE 5 [1, 2] 0x4A).wf = true := by
  decide

theorem test_wf_frame_head : (Instr.frame 0xAE 0x1E (List.replicate 27 0) 0x34).wf = false ∧
    (Instr.frame 0xAF 0x1E (List.replicate 27 0) 0x33).wf = true := by decide

theorem test_wf_report : (Instr.telemetryReport (List.replicate 26 0) 0).wf = false ∧
    (Instr.telemetryReport (List.replicate 27 0) 0x34).wf = true := by decide

/-! ### Decoding: words written out from spec/30_encoding.md R61, R66, R69 -/

/-- R69: op 00000001, arg 10101110. -/
theorem test_decode_start : read? (decodeCommand 0b0000000110101110) = some (.start 0xAE) := by decide

/-- R69: another op is no command. -/
theorem test_decode_not_a_command : read? (decodeCommand 0x0001) = none ∧ read? (decodeCommand 0xFFAE) = none := by
  decide

/-- R61, vector T4, with a byte of the next frame after it. -/
theorem test_decode_frame : read? (decodeFrame [0xA5, 0x06, 0x01, 0x02, 0x03, 0x4F, 0xAE]) =
    some (.frame 0xA5 0x06 [0x01, 0x02, 0x03] 0x4F, [0xAE]) := by decide

/-- R61, vector T10, the shortest frame. -/
theorem test_decode_shortest : read? (decodeFrame [0xAE, 0x03, 0x4F]) = some (.frame 0xAE 3 [] 0x4F, []) := by decide

/-- R66, vector V1. -/
theorem test_decode_report : read? (decodeFrame ([0xAE, 0x1E] ++ v1 ++ [0xAF])) = some (.telemetryReport v1 0xAF, []) := by
  decide

/-- R63, R71: length bytes 0, 1, 2 describe no frame; a frame cut short is none. -/
theorem test_decode_no_frame : read? (decodeFrame [0xAE, 0]) = none ∧ read? (decodeFrame [0xAE, 1, 0x51]) = none ∧
    read? (decodeFrame [0xAE, 2]) = none ∧ read? (decodeFrame [0xAE, 4, 1]) = none ∧ read? (decodeFrame [0xAE]) = none := by
  decide

/-- R69, R61: the bits an operation is written in. -/
theorem test_encode : encode (.start 0xAE) = some (.command 0x01AE) ∧
    encode (.frame 0xA5 6 [1, 2, 3] 0x4F) = some (.wire [0xA5, 0x06, 0x01, 0x02, 0x03, 0x4F]) ∧
    encode (.telemetryReport v1 0xAF) = some (.wire ([0xAE, 0x1E] ++ v1 ++ [0xAF])) ∧ encode .unpack = none := by decide

/-- The table's rows: START 0x01AE, TELEMETRY_REPORT 0xAE1E with zero bytes after it, a FRAME of header A5 and length 3;
word 0 is no frame (R71). -/
theorem test_table_words : decodeTableWord 16 0x01AE = some (.start 0xAE) ∧
    decodeTableWord 16 0xAE1E = some (.telemetryReport (List.replicate 27 0) 0) ∧
    decodeTableWord 16 0xA503 = some (.frame 0xA5 3 [] 0) ∧ decodeTableWord 16 0 = none := by decide +kernel

/-- The very next step runs the word. -/
theorem test_fetch_word : (after (step (State.reset.withFetchWord 16 0x01AE))).map (·.expHdr) = some (some 0xAE) ∧
    (after (step (State.reset.withFetchWord 16 0xA503))).map (·.wire) = some [0xA5, 3, 0] := by decide +kernel

/-! ### One step of each operation -/

/-- R111, vector V1 step 1. -/
theorem test_start : got (.start 0xAE) State.reset (fun t => (t.expHdr, t.st, t.status, t.req)) =
    some (some 0xAE, .awaitHeader, .none, some 1) := by decide

/-- Program P6: `START A5` while busy leaves `exp_hdr` = AE. -/
theorem test_start_busy : got (.start 0xA5) (started 0xAE) (fun t => (t.expHdr, t.st)) =
    some (some 0xAE, .awaitHeader) := by decide

/-- V1 step 2. -/
theorem test_await_header : got (.awaitHeader (.ok [0xAE])) (started 0xAE) (fun t => (t.hdr, t.sum, t.st, t.req)) =
    some (some 0xAE, some 0xAE, .awaitLength, some 1) := by decide

/-- T23, T24. -/
theorem test_await_header_fails : got (.awaitHeader .unavailable) (started 0xAE) (·.status) = some (.failed .noDevice) ∧
    got (.awaitHeader .shortRead) (started 0xAE) (·.status) = some (.failed .timeout) := by decide

/-- V1 step 3. -/
theorem test_await_length : got (.awaitLength (.ok [0x1E])) (headed 0xAE 0xAE) (fun t => (t.len, t.sum, t.cnt, t.req)) =
    some (some 0x1E, some 0xCC, some 28, some 28) := by decide

/-- T8b: header and length sum to zero, and the length 2 is still malformed; T25. -/
theorem test_await_length_fails : got (.awaitLength (.ok [2])) (headed 0xFE 0xFE) (fun t => (t.status, t.st, t.cnt)) =
      some (.failed .malformedPayload, .done, none) ∧
    got (.awaitLength .unavailable) (headed 0xAE 0xAE) (·.status) = some (.failed .timeout) := by decide

/-- Program P2: 05 03 AA. -/
theorem test_await_payload : got (.awaitPayload (.ok [0xAA])) (sized 0xAE 0x05 0x03)
    (fun t => (t.sum, t.st, Memory.lookup t.buf 0, Memory.lookup t.buf 1)) =
      some (some 0xB2, .validate, some 0xAA, none) := by decide

/-- T15, T26: a failed third read, and the buffer keeps no value. -/
theorem test_await_payload_fails : got (.awaitPayload .shortRead) (sized 0xAE 0xAE 0x1E) (fun t => (t.status, t.buf)) =
    some (.failed .timeout, []) := by decide

/-- T5: sum 10. -/
theorem test_validate_mismatch :
    got .validate (whole .validate 0xAE 0xA5 6 [0x01, 0x12, 0x03, 0x4F]) (fun t => (t.sum, t.status, t.st)) =
      some (some 0x10, .failed .checksumMismatch, .done) := by decide

/-- T4: sum 0. -/
theorem test_validate_ok :
    got .validate (whole .validate 0xAE 0xA5 6 [0x01, 0x02, 0x03, 0x4F]) (fun t => (t.status, t.st)) =
      some (.none, .headerCheck) := by decide

/-- T11. -/
theorem test_header_check_other : got .headerCheck (whole .headerCheck 0xA5 0xAE 3 [0x4F]) (fun t => (t.status, t.st)) =
    some (.failed .unexpectedHeader, .done) := by decide

/-- T22: header 0x00 is a legal header. -/
theorem test_header_check_same : got .headerCheck (whole .headerCheck 0 0 3 [0xFD]) (fun t => (t.status, t.st)) =
    some (.none, .success) := by decide

/-- T9: length 5, out_len 2, and the unpacker reports the payload. -/
theorem test_success_short : got .success (whole .success 0xAE 0xAE 5 [0x01, 0x02, 0x4A])
    (fun t => (t.outLen, t.status, t.uStatus, t.tStatus)) =
      some (some 2, .ok, .failed .malformedPayload, .failed .malformedPayload) := by decide

/-- V1 step 7. -/
theorem test_success_report : got .success v1State (fun t => (t.outLen, t.st, t.uStatus, t.fld.toList)) =
    some (some 27, .done, .ok, [some 19676, some (-21311), some 239837, some 4433, some (-23), some (-20), some (-14),
      some 49541, some 0]) := by decide +kernel

/-- V1: the seven values. -/
theorem test_unpack_values : got .unpack { v1State with outLen := some 27 } (fun t => t.val.toList) =
    some [some 0x436FD646, some 0x3D0D1595, some 0xBDEB851F, some 0xBDCCCCCD, some 0xBC656042, some 0x424629FC,
      some 0x00000000] := by decide +kernel

/-- R141: 26 bytes are not enough. -/
theorem test_unpack_length : got .unpack { v1State with outLen := some 26, fld := v1Fields.map some } (fun t => t.fld.toList) =
    some (List.replicate 9 none) := by decide +kernel

/-- R142's corners. -/
theorem test_sext24 : got (.sext24 0x800000) State.reset (·.sextOut) = some 0xFF800000 ∧
    got (.sext24 0x7FFFFF) State.reset (·.sextOut) = some 0x007FFFFF := by decide

/-- R142's example. -/
theorem test_sext24_example : got (.sext24 0xFFACC1) State.reset (·.sextOut.toInt) = some (-21311) := by decide

/-- R143 to R151: V1's fields, each from its own operation, and its neighbour left alone. -/
theorem test_extract0 : got .extract0 v1State (fun t => (t.fld[0], t.fld[1])) = some (some 19676, none) := by decide
theorem test_extract1 : got .extract1 v1State (fun t => (t.fld[1], t.fld[2])) = some (some (-21311), none) := by decide
theorem test_extract2 : got .extract2 v1State (fun t => (t.fld[2], t.fld[3])) = some (some 239837, none) := by decide
theorem test_extract3 : got .extract3 v1State (fun t => (t.fld[3], t.fld[4])) = some (some 4433, none) := by decide
theorem test_extract4 : got .extract4 v1State (fun t => (t.fld[4], t.fld[5])) = some (some (-23), none) := by decide
theorem test_extract5 : got .extract5 v1State (fun t => (t.fld[5], t.fld[6])) = some (some (-20), none) := by decide
theorem test_extract6 : got .extract6 v1State (fun t => (t.fld[6], t.fld[7])) = some (some (-14), none) := by decide
theorem test_extract7 : got .extract7 v1State (fun t => (t.fld[7], t.fld[8])) = some (some 49541, none) := by decide
theorem test_extract8 : got .extract8 v1State (fun t => (t.fld[8], t.fld[7])) = some (some 0, none) := by decide

/-- A field whose bytes hold no value is a fault (R12). -/
theorem test_extract_no_value : faultOf (exec .extract8 (whole .success 0xAE 0xAE 5 [1, 2, 3])) =
    some (.noValue (.buf 24)) := by decide

/-- spec/95_test_vectors.md section 6: the corners of each divisor. -/
theorem test_scale2 : got .scale2 (withField 2 8388607) (fun t => t.val[0]) = some (some 0x4603126E) := by decide
theorem test_scale3 : got .scale3 (withField 3 128700) (fun t => t.val[1]) = some (some 0x3F7FFFEF) ∧
    got .scale3 (withField 3 (-8388608)) (fun t => t.val[1]) = some (some 0xC2825BE5) := by decide
theorem test_scale4 : got .scale4 (withField 4 (-8388608)) (fun t => t.val[2]) = some (some 0xC723D70A) := by decide
theorem test_scale5 : got .scale5 (withField 5 8388607) (fun t => t.val[3]) = some (some 0x4723D709) := by decide
theorem test_scale6 : got .scale6 (withField 6 1000) (fun t => t.val[4]) = some (some 0x3F800000) := by decide
theorem test_scale7 : got .scale7 (withField 7 60000) (fun t => t.val[5]) = some (some 0x42700000) := by decide
theorem test_scale8 : got .scale8 (withField 8 1) (fun t => t.val[6]) = some (some 0x3A83126F) ∧
    got .scale8 (withField 8 0) (fun t => t.val[6]) = some (some 0) := by decide

/-- The vector that tells reading (iii) from the default and reading (ii): `SCALE 3` of 1. -/
theorem test_scale_readings : scaleFn .exact 1 1 = 0x37025BE5 ∧ scaleFn .binary64 1 1 = 0x37025BE5 ∧
    scaleFn .binary32 1 1 = 0x37025BE6 := by decide +kernel

/-- R93. -/
theorem test_open : got (.tOpen [] true) State.reset (fun t => (t.handle, t.tret)) = some (none, .deviceUnavailable) ∧
    got (.tOpen [0x2F] true) State.reset (·.handle) = some (some [0x2F]) := by decide

/-- spec/95_test_vectors.md section 7. -/
theorem test_read : got (.tRead 2) (openRef [2, 3, 4, 5]) (fun t => (t.tret, t.wire)) =
    some (.read (.ok [2, 3]), [4, 5]) := by decide
theorem test_read_short : got (.tRead 3) (openRef [4, 5]) (fun t => (t.tret, t.wire)) =
    some (.read .shortRead, []) := by decide

/-- R94. -/
theorem test_write : got (.tWrite [1, 2, 3] 2) (openRef []) (fun t => (t.tret, t.sent)) = some (.shortWrite, [1, 2]) ∧
    got (.tWrite [1, 2, 3] 3) (openRef []) (fun t => (t.tret, t.sent)) = some (.wrote 3, [1, 2, 3]) := by decide

/-- R95. -/
theorem test_t_reset : got .tReset { openRef [7] with vmin := .count 28 } (fun t => (t.vmin, t.wire)) =
    some (.nonBlocking, [7]) := by decide

/-- R96. -/
theorem test_close : got .tClose (openRef [7]) (·.handle) = some none ∧ got .tClose State.reset (·.handle) = some none := by
  decide

/-- Program P6: `RESET` in a waiting stage. -/
theorem test_reset : got .reset (headed 0xAE 0xAE) (fun t => (t.st, t.status, t.expHdr, t.hdr)) =
    some (.idle, .none, none, none) ∧ got .reset (headed 0xAE 0xAE) (fun t => (t.sum, t.req, t.abandoned)) =
    some (none, none, 1) := by decide

/-- R61, vector T4: wire order, behind what is there. -/
theorem test_frame : got (.frame 0xA5 6 [1, 2, 3] 0x4F) (openRef [9]) (·.wire) =
    some [9, 0xA5, 0x06, 0x01, 0x02, 0x03, 0x4F] := by decide

/-- V1 on the wire. -/
theorem test_report : got (.telemetryReport v1 0xAF) (openRef []) (·.wire) = some ([0xAE, 0x1E] ++ v1 ++ [0xAF]) := by
  decide

/-- R122's corner vectors. -/
theorem test_sums : neg8 0 = 0 ∧ neg8 1 = 0xFF ∧ neg8 0x80 = 0x80 ∧ neg8 0xFF = 1 ∧ sum8 [0xFF, 0xFF] = 0xFE ∧
    sum8 [0x80, 0x80] = 0 ∧ sum8 [] = 0 := by decide

/-- R20: the codes. -/
theorem test_codes : Status.ofCode 0 = some .none ∧ Status.ofCode 6 = some (.failed .malformedPayload) ∧
    Status.ofCode 7 = Option.none := by decide

/-- R92: the count of an open handle is set when the request is issued; without a handle it is not. -/
theorem test_issue_sets_count : got (.start 0xAE) (openRef []) (·.vmin) = some (.count 1) ∧
    got (.start 0xAE) State.reset (·.vmin) = some .nonBlocking ∧
    got (.awaitLength (.ok [0x1E])) { headed 0xAE 0xAE with handle := some [0x2F] } (·.vmin) = some (.count 28) := by decide

/-- R95, R231: a `T_RESET` in the wait stands after the answer, and a `RESET` in the wait leaves the count. -/
theorem test_count_in_the_wait : got (.tRead 2) { sized 0xAE 0xAE 4 with handle := some [0x2F], wire := [5, 6] }
      (fun t => (t.rsp, t.vmin)) = some (some (.ok [5, 6]), .nonBlocking) ∧
    got .reset { sized 0xAE 0xAE 4 with handle := some [0x2F], vmin := .count 2 } (·.vmin) = some (.count 2) := by decide

/-- R100: the reference Transport answers at once: a `T_OPEN` placed before its answer comes after it. -/
theorem test_reference_answers_at_once : (after (step { (openRef []).begin 0xAE with
    handle := none, schedule := [.tOpen [0x2F] true] })).map (fun t => (t.rsp, t.handle, t.schedule.length)) =
      some (some .unavailable, none, 1) := by decide

/-- R48: an oracle's `Ok` answer removes as many bytes as it has from the wire. -/
theorem test_oracle_answer : (after (step { sized 0xAE 0xAE 4 with
    wire := [5, 6, 7], schedule := [.answer (.ok [8, 9])] })).map (fun t => (t.rsp, t.wire)) =
      some (some (.ok [8, 9]), [7]) := by decide

/-- R118: a command placed in an internal stage waits, and the stage runs; R230: `RESET` does not wait. -/
theorem test_internal_stage : (after (step { whole .validate 0xAE 0xA5 3 [0x4F] with schedule := [.cmd 0x01AE] })).map
      (fun t => (t.st, t.schedule)) = some (.done, [.cmd 0x01AE]) ∧
    (after (step { whole .validate 0xAE 0xA5 3 [0x4F] with schedule := [.rst] })).map (fun t => (t.st, t.schedule)) =
      some (.idle, []) := by decide

/-! ### Witnesses: a concrete state and operands that meet the hypotheses of each statement, clause by clause -/

/-- The oracle at rest, with the acts `evs` to come. -/
def acting (evs : List Event) : State := { State.reset with schedule := evs }

/-- The reference Transport at rest with `w` on its wire, and `START e` to come. -/
def startingRef (e : Byte) (w : List Byte) : State := { openRef w with schedule := [.cmd (startWord e)] }

theorem witness_ResetEventClearsEveryState : (started 0xAE).req ≠ none ∧ (started 0xAE).rsp = none := by decide

theorem witness_ResetEventLeavesTheTransport : State.reset.req = none ∧
    ({ started 0xAE with rsp := some .shortRead } : State).rsp ≠ none ∧
    (sized 0xAE 0xAE 0x1E).req = some 28 ∧ (sized 0xAE 0xAE 0x1E).rsp = none := by decide

theorem witness_StartBeginsAnInvocation : State.reset.st = .idle ∧ (failed .timeout).st = .done ∧
    (started 0xAE).st ≠ .idle ∧ (started 0xAE).st ≠ .done := by decide

theorem witness_StartWhileBusyChangesNothing :
    ({ started 0xAE with schedule := [.cmd (startWord 0xA5)] } : State).busy = true ∧
    ({ started 0xAE with schedule := [.cmd (startWord 0xA5)] } : State).unshared = false ∧
    ({ started 0xAE with schedule := [.cmd (startWord 0xA5)] } : State).schedule = .cmd (startWord 0xA5) :: [] := by decide

theorem witness_AwaitHeaderTakesItsAnswer : (started 0xAE).st = .awaitHeader := by decide

theorem witness_AwaitLengthTakesItsAnswer : (headed 0xAE 0xAE).st = .awaitLength ∧
    (headed 0xAE 0xAE).sum = some 0xAE ∧ 3 ≤ (3 : Byte).toNat ∧ 3 ≤ (255 : Byte).toNat ∧ (2 : Byte).toNat < 3 ∧
    (0 : Byte).toNat < 3 := by decide

theorem witness_AwaitPayloadStoresTheBody : (sized 0xAE 0xAE 255).st = .awaitPayload ∧
    (sized 0xAE 0xAE 255).cnt = some 253 ∧ (sized 0xAE 0xAE 255).sum = some 0xAD ∧ (253 : Byte).toNat ≤ 253 ∧
    (List.replicate 253 (7 : Byte)).length = (253 : Byte).toNat ∧ (sized 0xAE 0xAE 3).cnt = some 1 ∧
    [(7 : Byte)].length = (1 : Byte).toNat := by decide

theorem witness_WrongAnswerLengthIsRefused :
    ([] : List Byte).length ≠ 1 ∧ [(1 : Byte), 2].length ≠ 1 ∧ (started 0xAE).st = .awaitHeader ∧
    (headed 0xAE 0xAE).st = .awaitLength ∧ (sized 0xAE 0xAE 4).st = .awaitPayload ∧
    (sized 0xAE 0xAE 4).cnt = some 2 ∧ [(1 : Byte)].length ≠ (2 : Byte).toNat ∧ (started 0xAE).cfg.transport = .oracle ∧
    (started 0xAE).inside = false ∧ (started 0xAE).req = some 1 ∧ (started 0xAE).rsp = none ∧ (Answer.ok [1, 2]).fits 1 = false ∧
    ({ started 0xAE with schedule := [.answer (.ok [1, 2])] } : State).schedule = .answer (.ok [1, 2]) :: [] := by decide

theorem witness_ValidateTestsTheResidual : (whole .validate 0xAE 0xA5 6 [1, 2, 3, 0x4F]).st = .validate ∧
    (whole .validate 0xAE 0xA5 6 [1, 2, 3, 0x4F]).sum = some 0 ∧
    (whole .validate 0xAE 0xA5 6 [1, 0x12, 3, 0x4F]).sum = some 0x10 := by decide

theorem witness_HeaderCheckComparesTheHeader : (whole .headerCheck 0xAE 0xAE 3 [0x4F]).st = .headerCheck ∧
    (whole .headerCheck 0xAE 0xAE 3 [0x4F]).hdr = some 0xAE ∧
    (whole .headerCheck 0xAE 0xAE 3 [0x4F]).expHdr = some 0xAE ∧
    (whole .headerCheck 0xA5 0xAE 3 [0x4F]).expHdr = some 0xA5 := by decide

theorem v1_read : Memory.read v1State.buf 0 27 = .ok v1 := by rfl

theorem v1_unpack : unpackPayload v1 = some v1Fields := by decide +kernel

theorem witness_SuccessPublishesTheResult : v1State.st = .success ∧ v1State.len = some 30 ∧ 3 ≤ (30 : Byte).toNat ∧
    Memory.read v1State.buf 0 27 = .ok v1 ∧ unpackPayload v1 = some v1Fields ∧
    (whole .success 0xAE 0xAE 3 [0x4F]).len = some 3 ∧ (3 : Byte) ≠ 30 ∧ 3 ≤ (3 : Byte).toNat :=
  ⟨rfl, rfl, by decide, v1_read, v1_unpack, rfl, by decide, by decide⟩

theorem witness_StageOperationsRunOnlyInTheirStage : State.reset.st ≠ .awaitHeader ∧ State.reset.st ≠ .awaitLength ∧
    State.reset.st ≠ .awaitPayload ∧ State.reset.st ≠ .validate ∧ State.reset.st ≠ .headerCheck ∧
    State.reset.st ≠ .success := by decide

/-- The first `n` bytes of a payload in the buffer, the block in `st`, with length byte 30 and 27 bytes published. -/
def short (st : Stage) (n : Nat) : State :=
  { State.reset with st := st, len := some 30, outLen := some 27, buf := Memory.setBytes [] 0 (v1.take n) }

theorem witness_ReadOfNoValueIsAFault :
    ({ State.reset with st := .awaitLength } : State).sum = none ∧
    ({ State.reset with st := .awaitPayload } : State).cnt = none ∧
    ({ State.reset with st := .awaitPayload, cnt := some 1 } : State).sum = none ∧ [(7 : Byte)].length = (1 : Byte).toNat ∧
    ({ State.reset with st := .validate } : State).sum = none ∧
    ({ State.reset with st := .headerCheck } : State).hdr = none ∧
    ({ State.reset with st := .headerCheck, hdr := some 0xAE } : State).hdr ≠ none ∧
    ({ State.reset with st := .headerCheck, hdr := some 0xAE } : State).expHdr = none ∧
    ({ State.reset with st := .success } : State).len = none ∧ State.reset.outLen = none ∧
    State.reset.fld[2] = none ∧ State.reset.fld[8] = none := by decide

/-- The first and the last byte of a payload, and the first and the last of a field's three, with every byte before it. -/
theorem witness_ReadOfNoValueIsAFault_bytes :
    Memory.lookup (short .success 0).buf 0 = none ∧
    (∀ j < 26, Memory.lookup (short .success 26).buf j ≠ none) ∧ Memory.lookup (short .success 26).buf 26 = none ∧
    (short .success 26).outLen = some 27 ∧ (short .success 26).st = .success ∧ (short .success 26).len = some 30 ∧
    Memory.lookup (short .done 0).buf (3 * (0 : Fin 9).val + 0) = none ∧
    (∀ j < 2, Memory.lookup (short .done 26).buf (3 * (8 : Fin 9).val + j) ≠ none) ∧
    Memory.lookup (short .done 26).buf (3 * (8 : Fin 9).val + 2) = none := by decide

theorem witness_UnpackWritesAllFieldsOrNone : ({ v1State with outLen := some 27 } : State).outLen = some 27 ∧
    Memory.read ({ v1State with outLen := some 27 } : State).buf 0 27 = .ok v1 ∧ unpackPayload v1 = some v1Fields ∧
    ({ v1State with outLen := some 26 } : State).outLen = some 26 ∧ (26 : Byte) ≠ 27 ∧ (28 : Byte) ≠ 27 :=
  ⟨rfl, v1_read, v1_unpack, rfl, by decide, by decide⟩

theorem witness_UnpackPayloadIsTotalOnTwentySevenBytes : v1.length = 27 ∧ (v1.take 26).length ≠ 27 ∧
    v1[3 * 0]? = some 0xDC ∧ v1[3 * 0 + 1]? = some 0x4C ∧ v1[3 * 0 + 2]? = some 0 ∧ v1[3 * 8]? = some 0 ∧
    v1[3 * 8 + 1]? = some 0 ∧ v1[3 * 8 + 2]? = some 0 := by decide

theorem witness_SextTwentyFourSignExtends : (24 ≤ 24 ∧ 24 < 32) ∧ (24 ≤ 31 ∧ 31 < 32) ∧
    ((-8388608 : Int) ≤ -8388608 ∧ (-8388608 : Int) ≤ 8388607) ∧ (-8388608 : Int) ≤ 8388607 ∧ (8388607 : Int) ≤ 8388607 ∧
    (sext24 0x800000).toInt = -8388608 ∧ (sext24 0x7FFFFF).toInt = 8388607 := by decide

theorem witness_ExtractWritesItsField : Memory.readByte v1State.buf (3 * (0 : Fin 9).val) = .ok 0xDC ∧
    Memory.readByte v1State.buf (3 * (0 : Fin 9).val + 1) = .ok 0x4C ∧
    Memory.readByte v1State.buf (3 * (0 : Fin 9).val + 2) = .ok 0 ∧
    Memory.readByte v1State.buf (3 * (8 : Fin 9).val) = .ok 0 ∧ Memory.readByte v1State.buf (3 * (8 : Fin 9).val + 1) = .ok 0 ∧
    Memory.readByte v1State.buf (3 * (8 : Fin 9).val + 2) = .ok 0 := by
  exact ⟨rfl, rfl, rfl, rfl, rfl, rfl⟩

/-- V1 with another byte 9 (Irms), so that field 8 stands and field 3 differs. -/
def v1Other : State := { v1State with outLen := some 27, buf := Memory.set v1State.buf 9 0x52 }

/-- V1 with its length published. -/
def v1Read : State := { v1State with outLen := some 27 }

theorem v1Read_runs : ∃ t, exec .unpack v1Read = .next t := runs (by decide +kernel)

theorem v1Other_runs : ∃ t, exec .unpack v1Other = .next t := runs (by decide +kernel)

theorem v1_lane_eight (i : Nat) (h1 : 24 ≤ i) (h2 : i ≤ 26) :
    Memory.readByte v1Read.buf i = Memory.readByte v1Other.buf i := by
  obtain rfl | rfl | rfl : i = 24 ∨ i = 25 ∨ i = 26 := by omega
  · exact Eq.trans (b := .ok 0) (by rfl) (by rfl)
  · exact Eq.trans (b := .ok 0) (by rfl) (by rfl)
  · exact Eq.trans (b := .ok 0) (by rfl) (by rfl)

theorem witness_UnpackLanesAreIndependent : v1Read.outLen = some 27 ∧ v1Other.outLen = some 27 ∧
    v1Read.cfg = v1Other.cfg ∧ (∃ t, exec .unpack v1Read = .next t) ∧ (∃ t, exec .unpack v1Other = .next t) ∧
    ∀ i, 3 * (8 : Fin 9).val ≤ i → i ≤ 3 * (8 : Fin 9).val + 2 →
      Memory.readByte v1Read.buf i = Memory.readByte v1Other.buf i :=
  ⟨rfl, rfl, rfl, v1Read_runs, v1Other_runs, v1_lane_eight⟩

theorem witness_ScaleWritesItsValue : (withField 2 8388607).fld[(0 : Fin 7).val + 2] = some 8388607 ∧
    (withField 8 (-1)).fld[(6 : Fin 7).val + 2] = some (-1) := by decide

/-- R171's rows, the second and the last of them. -/
theorem witness_ScaleExactIsTheNearestBinary32 :
    ((1 : Fin 7), (1287001287 : ℚ), (10000 : ℚ)) ∈ [((0 : Fin 7), (1000 : ℚ), (1 : ℚ)), (1, 1287001287, 10000), (2, 200, 1),
      (3, 200, 1), (4, 1000, 1), (5, 1000, 1), (6, 1000, 1)] ∧
    ((6 : Fin 7), (1000 : ℚ), (1 : ℚ)) ∈ [((0 : Fin 7), (1000 : ℚ), (1 : ℚ)), (1, 1287001287, 10000), (2, 200, 1),
      (3, 200, 1), (4, 1000, 1), (5, 1000, 1), (6, 1000, 1)] ∧
    -8388608 ≤ (-8388608 : Word).toInt ∧ (-8388608 : Word).toInt ≤ 8388607 ∧
    -8388608 ≤ (8388607 : Word).toInt ∧ (8388607 : Word).toInt ≤ 8388607 ∧ (∃ r, f32Value 0 = some r) :=
  ⟨by simp, by simp, by decide, by decide, by decide, by decide, _, rfl⟩

theorem witness_ScaleResultsAreNormalOrPlusZero : ScaleReading.exact ≠ .unknown ∧ ScaleReading.binary32 ≠ .unknown ∧
    -8388608 ≤ (0 : Word).toInt ∧ (0 : Word).toInt ≤ 8388607 ∧ (1 : Word) ≠ 0 ∧ -8388608 ≤ (-8388608 : Word).toInt ∧
    (-8388608 : Word).toInt ≤ 8388607 ∧ (-8388608 : Word) ≠ 0 := by decide

theorem witness_ScaleExactRoundTrips :
    ((0 : Fin 7), (1000 : ℚ), (1 : ℚ)) ∈ [((0 : Fin 7), (1000 : ℚ), (1 : ℚ)), (1, 1287001287, 10000), (2, 200, 1),
      (3, 200, 1), (4, 1000, 1), (5, 1000, 1), (6, 1000, 1)] ∧
    -8388608 ≤ (-8388608 : Word).toInt ∧ (-8388608 : Word).toInt ≤ 8388607 ∧
    -8388608 ≤ (8388607 : Word).toInt ∧ (8388607 : Word).toInt ≤ 8388607 :=
  ⟨by simp, by decide, by decide, by decide, by decide⟩

theorem witness_PackAndUnpackAreInverse : (∀ k : Fin 9, -8388608 ≤ v1Fields[k].toInt ∧ v1Fields[k].toInt ≤ 8388607) ∧
    v1.length = 27 ∧ unpackPayload v1 = some v1Fields :=
  ⟨by decide, rfl, v1_unpack⟩

theorem witness_TOpenGivesAHandleOrFails : ([0x2F] : List Byte) ≠ [] ∧ true = true ∧ ([] : List Byte) = [] ∧ false = false := by
  decide

theorem witness_TReadAnswersItsReader : 1 ≤ 1 ∧ (started 0xAE).busy = true ∧ (started 0xAE).req = some 1 ∧
    (started 0xAE).rsp = none ∧ (started 0xAE).handle = none ∧
    ({ started 0xAE with handle := some [0x2F], wire := [7] } : State).handle ≠ none ∧
    1 ≤ ({ started 0xAE with handle := some [0x2F], wire := [7] } : State).wire.length ∧
    ({ started 0xAE with handle := some [0x2F] } : State).wire.length < 1 ∧ State.reset.busy = false ∧
    State.reset.handle = none ∧ (openRef [7]).busy = false ∧ (openRef [7]).handle ≠ none ∧ 1 ≤ (openRef [7]).wire.length ∧
    (openRef []).wire.length < 1 := by decide

theorem witness_ReferenceTransportReads : (openRef []).cfg.transport = .reference := by decide

theorem witness_SecondReaderAndZeroReadAreRefused : 2 ≠ 0 ∧ (started 0xAE).busy = true ∧ (started 0xAE).req ≠ some 2 ∧
    ({ started 0xAE with rsp := some .shortRead } : State).rsp ≠ none ∧
    ({ started 0xAE with schedule := [.tRead 1] } : State).busy = true ∧
    ({ started 0xAE with schedule := [.tRead 1] } : State).unshared = false ∧
    ({ started 0xAE with schedule := [.tRead 1] } : State).schedule = .tRead 1 :: [] := by decide

theorem witness_TWriteSucceedsOnlyWhole : State.reset.handle = none ∧ (openRef []).handle ≠ none ∧
    [(1 : Byte), 2].length ≤ 2 ∧ 1 < [(1 : Byte), 2].length := by decide

theorem witness_TResetReleasesTheCount : (openRef []).handle ≠ none := by decide

theorem witness_DecodeOfEncodeIsTheOperation : (Instr.start 0xAE).wf = true ∧
    encode (.start 0xAE) = some (.command (startWord 0xAE)) ∧ (Instr.frame 0xA5 6 [1, 2, 3] 0x4F).wf = true ∧
    encode (.frame 0xA5 6 [1, 2, 3] 0x4F) = some (.wire (frameBytes 0xA5 6 [1, 2, 3] 0x4F)) ∧
    (Instr.telemetryReport v1 0xAF).wf = true ∧
    encode (.telemetryReport v1 0xAF) = some (.wire (frameBytes 0xAE 0x1E v1 0xAF)) := by decide

theorem witness_EncodeOfDecodeIsTheWord : decode (.command 0x01AE) = .ok (.start 0xAE) ∧
    decode (.wire [0xAE, 0x03, 0x4F]) = .ok (.frame 0xAE 3 [] 0x4F) := ⟨rfl, rfl⟩

theorem witness_OtherOpcodesAreNoCommands : (0x00AE : Half).extractLsb' 8 8 ≠ 0x01 ∧
    (0x02AE : Half).extractLsb' 8 8 ≠ 0x01 ∧ (acting [.cmd 0x02AE]).unshared = false ∧ (acting [.cmd 0x02AE]).schedule = .cmd 0x02AE :: [] := by decide

theorem witness_StepRunsTheDecodedOperation : (acting [.cmd 0x01AE]).schedule = .cmd 0x01AE :: [] ∧
    (acting [.cmd 0x01AE]).unshared = false ∧ decodeCommand 0x01AE = .ok (.start 0xAE) ∧
    (acting [.wire [0xAE, 0x03, 0x4F]]).schedule = .wire [0xAE, 0x03, 0x4F] :: [] ∧
    decodeFrame [0xAE, 0x03, 0x4F] = .ok (.frame 0xAE 3 [] 0x4F, []) ∧
    decodeFrame [0xAE, 0x03, 0x4F, 0x77] = .ok (.frame 0xAE 3 [] 0x4F, [0x77]) ∧
    decodeFrame [0xAE, 0x02] = .error (.lengthBelowThree 2) ∧ decodeTableWord 16 0x01AE = some (.start 0xAE) :=
  ⟨rfl, rfl, rfl, rfl, rfl, rfl, rfl, rfl⟩

/-- The oracle in stage 3, asked for 2 bytes, with bytes on the wire and the acts `evs` to come. -/
def asking (evs : List Event) : State := { sized 0xAE 0xAE 4 with wire := [5, 6, 7], schedule := evs }

theorem witness_StepRunsTheDecodedOperation_acts : (asking []).unshared = false ∧ (asking []).cfg.transport = .oracle ∧
    (asking []).req = some 2 ∧ (asking []).rsp = none ∧
    (asking [.answer (.ok [8, 9])]).schedule = .answer (.ok [8, 9]) :: [] ∧ [(8 : Byte), 9].length = 2 ∧
    (asking [.answer .shortRead]).schedule = .answer .shortRead :: [] ∧
    (asking [.answer .unavailable]).schedule = .answer .unavailable :: [] ∧
    ({ acting [.lateAnswer .shortRead] with abandoned := 1 } : State).abandoned = 0 + 1 ∧
    (acting [.lateAnswer .shortRead]).schedule = .lateAnswer .shortRead :: [] ∧
    (acting [.tOpen [0x2F] true]).schedule = .tOpen [0x2F] true :: [] ∧ (acting [.tRead 1]).busy = false ∧
    (acting [.tRead 1]).schedule = .tRead 1 :: [] ∧ (acting [.tWrite [1] 1]).schedule = .tWrite [1] 1 :: [] ∧
    (acting [.tReset]).schedule = .tReset :: [] ∧ (acting [.tClose]).schedule = .tClose :: [] ∧
    (acting [.rst]).schedule = .rst :: [] := by decide

/-- A block whose turn is next, by an act of the schedule. -/
def turn (s : State) : State := { s with schedule := [.block] }

theorem witness_StepRunsTheSelectedStage :
    (turn (whole .validate 0xAE 0xAE 3 [0x4F])).schedule = .block :: (whole .validate 0xAE 0xAE 3 [0x4F]).schedule ∧
    (whole .validate 0xAE 0xAE 3 [0x4F]).st = .validate ∧ (whole .headerCheck 0xAE 0xAE 3 [0x4F]).schedule = [] ∧
    (whole .headerCheck 0xAE 0xAE 3 [0x4F]).st = .headerCheck ∧ v1State.st = .success ∧
    ({ started 0xAE with rsp := some .shortRead } : State).rsp = some .shortRead ∧ (started 0xAE).st = .awaitHeader ∧
    (headed 0xAE 0xAE).st = .awaitLength ∧ (sized 0xAE 0xAE 3).st = .awaitPayload ∧
    ((openRef []).begin 0xAE).waiting = true ∧ ((openRef []).begin 0xAE).rsp = none ∧
    ((openRef []).begin 0xAE).req = some 1 ∧ ((openRef []).begin 0xAE).cfg.transport = .reference ∧
    State.reset.st = .idle ∧ (failed .timeout).st = .done := by decide

/-- An internal stage with a command placed before its turn. -/
def crowded : State := { whole .validate 0xAE 0xAE 3 [0x4F] with schedule := [.cmd 0x01AE] }

/-- The reference Transport about to answer, with a call placed before. -/
def crowdedRef : State := { (openRef []).begin 0xAE with schedule := [.tClose] }

theorem witness_StepRunsTheSelectedStage_unshared :
    (crowded.unshared = true ∧ crowded.st = .validate ∧
      ∀ rest, crowded.schedule ≠ .block :: rest ∧ crowded.schedule ≠ .rst :: rest) ∧
    crowdedRef.unshared = true ∧ crowdedRef.waiting = true ∧ crowdedRef.rsp = none ∧ crowdedRef.req = some 1 ∧
      crowdedRef.cfg.transport = .reference ∧
      ∀ rest, crowdedRef.schedule ≠ .block :: rest ∧ crowdedRef.schedule ≠ .rst :: rest :=
  ⟨⟨by decide, by decide, fun rest => ⟨by simp [crowded], by simp [crowded]⟩⟩, by decide, by decide, by decide, by decide,
    by decide, fun rest => ⟨by simp [crowdedRef], by simp [crowdedRef]⟩⟩

/-- T27. -/
theorem witness_WaitingBlockWaitsForEver : (sized 0xAE 0xAE 0x1E).waiting = true ∧
    (sized 0xAE 0xAE 0x1E).cfg.transport = .oracle ∧ (sized 0xAE 0xAE 0x1E).rsp = none ∧
    (sized 0xAE 0xAE 0x1E).schedule = [] := by decide

theorem witness_OnlyTheTableMovesTheStage : ∃ t, exec (.start 0xAE) State.reset = .next t := ⟨_, rfl⟩

theorem witness_FailureIsFinalForTheInvocation : (failed .timeout).st = .done ∧
    (failed .timeout).status = .failed .timeout ∧
    ∃ t, exec (.start 0xAE) (failed .timeout) = .next t ∧ t.status ≠ .failed .timeout :=
  ⟨rfl, rfl, _, rfl, by decide⟩

theorem witness_RegistersHaveTheirOwnWriters :
    (∃ t, exec (.awaitLength (.ok [3])) (headed 0xAE 0xAE) = .next t ∧ t.len ≠ (headed 0xAE 0xAE).len ∧
      t.cnt ≠ (headed 0xAE 0xAE).cnt ∧ t.sum ≠ (headed 0xAE 0xAE).sum) ∧
    (∃ t, exec (.awaitHeader (.ok [0xAE])) (started 0xAE) = .next t ∧ t.hdr ≠ (started 0xAE).hdr) ∧
    (∃ t, exec .success (whole .success 0xAE 0xAE 3 [0x4F]) = .next t ∧ t.outLen ≠ none) ∧
    (∀ e, Instr.success ≠ .start e) ∧ Instr.success ≠ .reset ∧ ∀ bs, Instr.success ≠ .awaitPayload (.ok bs) :=
  ⟨⟨_, rfl, by decide, by decide, by decide⟩, ⟨_, rfl, by decide⟩, ⟨_, rfl, by decide⟩, by simp, by simp, by simp⟩

theorem witness_FieldsHaveTheirOwnWriters :
    (∃ t, exec .extract0 v1State = .next t ∧ t.fld[(0 : Fin 9)] ≠ v1State.fld[(0 : Fin 9)]) ∧
    (∃ t, exec .scale8 (withField 8 1) = .next t ∧ t.val[(6 : Fin 7)] ≠ (withField 8 1).val[(6 : Fin 7)]) ∧
    (∀ e, Instr.extract0 ≠ .start e) ∧ Instr.extract0 ≠ .reset ∧ Instr.extract0 ≠ .success ∧ Instr.extract0 ≠ .unpack :=
  ⟨⟨_, rfl, by decide⟩, ⟨_, rfl, by decide⟩, by simp, by simp, by simp, by simp⟩

theorem witness_BlockOperationsLeaveTheTransport : (∃ t, exec .validate (whole .validate 0xAE 0xAE 3 [0x4F]) = .next t) ∧
    (∀ p o, Instr.validate ≠ .tOpen p o) ∧ Instr.validate ≠ .tClose ∧ (∀ bs n, Instr.validate ≠ .tWrite bs n) ∧
    (∀ n, Instr.validate ≠ .tRead n) ∧ Instr.validate ≠ .tReset ∧ (∀ h l d c, Instr.validate ≠ .frame h l d c) ∧
    (∀ d c, Instr.validate ≠ .telemetryReport d c) ∧ Instr.validate ≠ .reset ∧ ∀ raw, Instr.validate ≠ .sext24 raw :=
  ⟨⟨_, rfl⟩, by simp, by simp, by simp, by simp, by simp, by simp, by simp, by simp, by simp⟩

theorem witness_BufferStaysCanonical : (sized 0xAE 0xAE 4).buf.wf = true ∧
    ∃ t, exec (.awaitPayload (.ok [1, 2])) (sized 0xAE 0xAE 4) = .next t := ⟨rfl, _, rfl⟩

/-- V1 in stage 6 meets the invariant. -/
theorem v1_inv : v1State.Inv where
  mem := by decide +kernel
  answer := by intro a h; cases h
  stage := by
    refine ⟨rfl, ⟨rfl, rfl, rfl⟩, rfl, 0xAE, 0x1E, v1 ++ [0xAF], ⟨rfl, rfl, by decide, rfl, rfl, rfl, rfl⟩, ?_, rfl⟩
    decide

theorem witness_EveryStepKeepsTheInvariant : v1State.Inv ∧ ∃ t, step v1State = .next t := ⟨v1_inv, _, rfl⟩

theorem witness_NoRuleReadsNoValue : v1State.Inv ∧ v1State.schedule = [] := ⟨v1_inv, rfl⟩

theorem witness_DerivedFlagsFollowTheirDefinitions : State.reset.payValid = false ∧ State.reset.fldValid = false ∧
    ({ State.reset with st := .done, status := .ok, outLen := some 27 } : State).fldValid = true ∧
    ({ State.reset with st := .done, status := .ok, outLen := some 26 } : State).payValid = true ∧
    ({ State.reset with st := .done, status := .ok, outLen := some 26 } : State).fldValid = false ∧
    (failed .timeout).status ≠ .ok := by decide

theorem witness_StatusCodesAreDistinct : Status.ofCode 1 = some .ok ∧ Status.ofCode 6 = some (.failed .malformedPayload) := by
  decide

theorem witness_OutputsHoldNoValueAfterAFailure : (failed .checksumMismatch).status ≠ .ok := by decide

theorem witness_ByteSumLaws : [(1 : Byte), 2].Perm [2, 1] := by decide

theorem witness_MadeFramesAreOk : (List.replicate 252 (0xFF : Byte)).length ≤ 252 ∧ ([] : List Byte).length ≤ 252 := by decide

theorem witness_ChecksumMissesReorderings : [(1 : Byte), 2].Perm [2, 1] ∧ 0 ≠ 1 ∧ [(1 : Byte), 2][0]? = some 1 ∧
    [(1 : Byte), 2][1]? = some 2 := by decide

theorem witness_InvocationUnderTheOracle :
    (acting (oracleSchedule 0xAE (.ok [0xAE]) (.ok [0x1E]) (.ok (v1 ++ [0xAF])))).busy = false ∧
    (acting (oracleSchedule 0xAE (.ok [0xAE]) (.ok [0x1E]) (.ok (v1 ++ [0xAF])))).cfg.transport = .oracle ∧
    readFrame 0xAE (.ok [0xAE]) (.ok [0x1E]) (.ok (v1 ++ [0xAF])) = some (.ok 27 v1) ∧
    readFrame 0xAE .unavailable .shortRead .shortRead = some (.failed .noDevice) ∧
    readFrame 0xFE (.ok [0xFE]) (.ok [2]) .shortRead = some (.failed .malformedPayload) := by decide

theorem witness_InvocationUnderTheReferenceTransport : (startingRef 0xAE [0xAE, 0x03, 0x4F]).busy = false ∧
    (startingRef 0xAE [0xAE, 0x03, 0x4F]).cfg.transport = .reference ∧
    (startingRef 0xAE [0xAE, 0x03, 0x4F]).schedule = [.cmd (startWord 0xAE)] := by decide

/-- T17's size, and T10's frame. -/
theorem witness_ValidFramesAreAccepted : (List.replicate 252 (0 : Byte)).length ≤ 252 ∧
    (acting (oracleSchedule 0xAE (.ok [0xAE]) (.ok [3]) (.ok ((mkFrame 0xAE []).drop 2)))).busy = false ∧
    (startingRef 0xAE [0xAE, 0x03, 0x4F, 0xAE]).cfg.transport = .reference ∧
    (startingRef 0xAE [0xAE, 0x03, 0x4F, 0xAE]).handle ≠ none ∧
    (startingRef 0xAE [0xAE, 0x03, 0x4F, 0xAE]).wire = mkFrame 0xAE [] ++ [0xAE] ∧
    (startingRef 0xAE [0xAE, 0x03, 0x4F, 0xAE]).schedule = [.cmd (startWord 0xAE)] := by decide

/-- T10's frame with its header, then its checksum byte, changed. -/
theorem witness_OneCorruptedByteIsAMismatch : frameOk 0xAE [0xAE, 0x03, 0x4F] = true ∧
    0 < [(0xAE : Byte), 0x03, 0x4F].length ∧ 2 < [(0xAE : Byte), 0x03, 0x4F].length ∧ 0 ≠ 1 ∧ 2 ≠ 1 ∧
    [(0xAE : Byte), 0x03, 0x4F][0]? ≠ some 0xAF ∧ [(0xAE : Byte), 0x03, 0x4F][2]? ≠ some 0x4E ∧
    [(0xAE : Byte), 0x03, 0x4E] = [(0xAE : Byte), 0x03, 0x4F].set 2 0x4E ∧
    (acting (oracleSchedule 0xAE (.ok [0xAE]) (.ok [0x03]) (.ok [0x4E]))).busy = false ∧
    (acting (oracleSchedule 0xAE (.ok [0xAE]) (.ok [0x03]) (.ok [0x4E]))).cfg.transport = .oracle ∧
    (acting (oracleSchedule 0xAE (.ok [0xAE]) (.ok [0x03]) (.ok [0x4E]))).schedule = oracleSchedule 0xAE
      (.ok ([0xAE, 0x03, 0x4E].take 1)) (.ok (([0xAE, 0x03, 0x4E].drop 1).take 1)) (.ok ([0xAE, 0x03, 0x4E].drop 2)) ∧
    (startingRef 0xAE [0xAE, 0x03, 0x4E]).busy = false ∧ (startingRef 0xAE [0xAE, 0x03, 0x4E]).cfg.transport = .reference ∧
    (startingRef 0xAE [0xAE, 0x03, 0x4E]).handle ≠ none ∧
    (startingRef 0xAE [0xAE, 0x03, 0x4E]).wire = [0xAE, 0x03, 0x4E] ++ [] ∧
    (startingRef 0xAE [0xAE, 0x03, 0x4E]).schedule = [.cmd (startWord 0xAE)] := by decide

/-- T11. -/
theorem witness_AnotherHeaderIsUnexpected : wellSized [0xAE, 0x03, 0x4F] = true ∧ checksumOk [0xAE, 0x03, 0x4F] = true ∧
    ([0xAE, 0x03, 0x4F] : List Byte).head? ≠ some 0xA5 ∧
    (acting (oracleSchedule 0xA5 (.ok [0xAE]) (.ok [0x03]) (.ok [0x4F]))).busy = false ∧
    (acting (oracleSchedule 0xA5 (.ok [0xAE]) (.ok [0x03]) (.ok [0x4F]))).schedule = oracleSchedule 0xA5
      (.ok ([0xAE, 0x03, 0x4F].take 1)) (.ok (([0xAE, 0x03, 0x4F].drop 1).take 1)) (.ok ([0xAE, 0x03, 0x4F].drop 2)) ∧
    (startingRef 0xA5 [0xAE, 0x03, 0x4F]).busy = false ∧
    (startingRef 0xA5 [0xAE, 0x03, 0x4F]).cfg.transport = .reference ∧ (startingRef 0xA5 [0xAE, 0x03, 0x4F]).handle ≠ none ∧
    (startingRef 0xA5 [0xAE, 0x03, 0x4F]).wire = [0xAE, 0x03, 0x4F] ++ [] ∧
    (startingRef 0xA5 [0xAE, 0x03, 0x4F]).schedule = [.cmd (startWord 0xA5)] := by decide

end Sys2Proof.Tests
end

section
/-! PROOFS. The statements about the state (spec/10_state.md): which operation writes what, the invariant along every step,
reads of no value, reset values and derived flags. -/

namespace Sys2Proof.Machine

/-! ### Which registers two states share -/

/-- The parameters, every register of the block, the buffer and the request are the same: at most the answer on `rd_rsp`, the
Transport (R26, R27) and the model's own fields differ. -/
def SameRegisters (s t : State) : Prop :=
  t = { s with
    rsp := t.rsp, handle := t.handle, vmin := t.vmin, wire := t.wire, debt := t.debt, abandoned := t.abandoned
    sent := t.sent, tret := t.tret, sextOut := t.sextOut, tick := t.tick, schedule := t.schedule }

theorem SameRegisters.trans {s t u : State} (h : SameRegisters s t) (g : SameRegisters t u) : SameRegisters s u := by
  unfold SameRegisters at *
  rw [g, h]

theorem sameRegisters_deliver (s : State) (bs : List Byte) : SameRegisters s (s.deliver bs) := rfl

theorem sameRegisters_consume (s : State) (n : Nat) (a : Answer) : SameRegisters s (s.consume n a) := by
  rw [s.consume_moves n a]
  rfl

theorem sameRegisters_endRead (n : Nat) (s : State) : SameRegisters s (endRead n s).2 :=
  sameRegisters_consume s n _

theorem sameRegisters_transportRead (n : Nat) (s : State) : SameRegisters s (transportRead n s).2 :=
  SameRegisters.trans (t := s.setCount n) rfl (sameRegisters_endRead n _)

/-! ### What an operation that answers a next state has done, over all operations -/

/-- What the six stage operations leave (R112 to R117). -/
inductive StageEffect (s : State) : Instr → State → Prop where
  | headerOk (b : Byte) (hs : s.st = .awaitHeader) :
      StageEffect s (.awaitHeader (.ok [b])) (State.issue { s with hdr := some b, sum := some b, st := .awaitLength } 1)
  | headerFailed (a : Answer) (k : Failure) (hs : s.st = .awaitHeader)
      (ha : (a = .shortRead ∧ k = .timeout) ∨ (a = .unavailable ∧ k = .noDevice)) :
      StageEffect s (.awaitHeader a) (s.answered.raise k)
  | lengthOk (b sm : Byte) (hs : s.st = .awaitLength) (hsm : s.sum = some sm) (hb : 3 ≤ b.toNat) :
      StageEffect s (.awaitLength (.ok [b])) (State.issue
        { s.answered with len := some b, sum := some (sm + b), cnt := some (b - 2), st := .awaitPayload } (b.toNat - 2))
  | lengthBad (b sm : Byte) (hs : s.st = .awaitLength) (hsm : s.sum = some sm) (hb : b.toNat < 3) :
      StageEffect s (.awaitLength (.ok [b]))
        (State.raise { s.answered with len := some b, sum := some (sm + b) } .malformedPayload)
  | lengthFailed (a : Answer) (hs : s.st = .awaitLength) (ha : a = .shortRead ∨ a = .unavailable) :
      StageEffect s (.awaitLength a) (s.answered.raise .timeout)
  | payloadOk (bs : List Byte) (c sm : Byte) (hs : s.st = .awaitPayload) (hc : s.cnt = some c)
      (hl : bs.length = c.toNat) (hsm : s.sum = some sm) (hb : bs.length ≤ Config.bufDepth) :
      StageEffect s (.awaitPayload (.ok bs))
        { s.answered with buf := Memory.setBytes s.buf 0 bs, sum := some (sm + sum8 bs), st := .validate }
  | payloadFailed (a : Answer) (hs : s.st = .awaitPayload) (ha : a = .shortRead ∨ a = .unavailable) :
      StageEffect s (.awaitPayload a) (s.answered.raise .timeout)
  | summed (hs : s.st = .validate) (hsm : s.sum = some 0) : StageEffect s .validate { s with st := .headerCheck }
  | residual (sm : Byte) (hs : s.st = .validate) (hsm : s.sum = some sm) (h0 : sm ≠ 0) :
      StageEffect s .validate (s.raise .checksumMismatch)
  | sameHeader (e : Byte) (hs : s.st = .headerCheck) (hh : s.hdr = some e) (he : s.expHdr = some e) :
      StageEffect s .headerCheck { s with st := .success }
  | otherHeader (x e : Byte) (hs : s.st = .headerCheck) (hh : s.hdr = some x) (he : s.expHdr = some e) (hn : x ≠ e) :
      StageEffect s .headerCheck (s.raise .unexpectedHeader)
  | success (l : Byte) (u : State) (hs : s.st = .success) (hl : s.len = some l)
      (hu : unpackInto { s with outLen := some (l - 3), status := .ok } = .ok u)
      (hf : SameButFields { s with outLen := some (l - 3), status := .ok } u) :
      StageEffect s .success { u with st := .done }

/-- What the unpacker's and the scaler's operations leave (R141 to R151, R172 to R178). -/
inductive FieldEffect (s : State) : Instr → State → Prop where
  | unpack (t : State) (h : unpackInto s = .ok t) : FieldEffect s .unpack t
  | extract (k : Fin 9) (raw : Raw) (h : rawField s.buf k = .ok raw) :
      FieldEffect s (Instr.extract k) (s.setFld k (sext24 raw))
  | scale (j : Fin 7) (v : Word) (h : s.fld[j.val + 2]'(by omega) = some v) :
      FieldEffect s (Instr.scale j) (s.setVal j (scaleFn s.cfg.scale j v))

/-- What the operations outside the block leave: the sign extension by itself (R142), the Transport's calls (R92 to R96) and
the device's frames (R61). -/
inductive OutsideEffect (s : State) : Instr → State → Prop where
  | sext24 (raw : Raw) : OutsideEffect s (.sext24 raw) { s with sextOut := sext24 raw }
  | tOpen (p : List Byte) (o : Bool) (handle : Option (List Byte)) (tret : TReturn) :
      OutsideEffect s (.tOpen p o) { s with handle := handle, tret := tret }
  | blockRead (n : Nat) (hb : s.busy = true) (hq : s.req = some n) (hr : s.rsp = none) :
      OutsideEffect s (.tRead n) { (endRead n s).2 with rsp := some (endRead n s).1 }
  | callerRead (n : Nat) (hb : s.busy = false) :
      OutsideEffect s (.tRead n) { (transportRead n s).2 with tret := .read (transportRead n s).1 }
  | tWrite (bs : List Byte) (n : Nat) (sent : List Byte) (tret : TReturn) :
      OutsideEffect s (.tWrite bs n) { s with sent := sent, tret := tret }
  | tReset : OutsideEffect s .tReset { s with vmin := .nonBlocking, tret := .finished }
  | tClose : OutsideEffect s .tClose { s with handle := none, tret := .finished }
  | frame (h l : Byte) (data : List Byte) (c : Byte) :
      OutsideEffect s (.frame h l data c) (s.deliver (frameBytes h l data c))
  | telemetryReport (data : List Byte) (c : Byte) :
      OutsideEffect s (.telemetryReport data c)
        (s.deliver (frameBytes Config.telemetryHeader Config.telemetryLen data c))

/-- What any operation that answers a next state leaves. -/
inductive Effect (s : State) : Instr → State → Prop where
  | ignored (e : Byte) (hb : s.busy = true) : Effect s (.start e) s
  | begun (e : Byte) (hb : s.busy = false) : Effect s (.start e) (s.begin e)
  | reset : Effect s .reset s.abandon.resetBlock
  | stage {i : Instr} {t : State} (h : StageEffect s i t) : Effect s i t
  | field {i : Instr} {t : State} (h : FieldEffect s i t) : Effect s i t
  | outside {i : Instr} {t : State} (h : OutsideEffect s i t) : Effect s i t

theorem execAwaitHeader_effect {a : Answer} {s t : State} (h : execAwaitHeader a s = .next t) :
    StageEffect s (.awaitHeader a) t := by
  obtain ⟨hs, ⟨b, rfl, rfl⟩ | ⟨rfl, rfl⟩ | ⟨rfl, rfl⟩⟩ := execAwaitHeader_next h
  · exact .headerOk b hs
  · exact .headerFailed _ _ hs (.inl ⟨rfl, rfl⟩)
  · exact .headerFailed _ _ hs (.inr ⟨rfl, rfl⟩)

theorem execAwaitLength_effect {a : Answer} {s t : State} (h : execAwaitLength a s = .next t) :
    StageEffect s (.awaitLength a) t := by
  obtain ⟨hs, ⟨b, sm, rfl, hsm, hb, rfl⟩ | ⟨b, sm, rfl, hsm, hb, rfl⟩ | ⟨ha, rfl⟩⟩ := execAwaitLength_next h
  · exact .lengthBad b sm hs hsm hb
  · exact .lengthOk b sm hs hsm hb
  · exact .lengthFailed a hs ha

theorem execAwaitPayload_effect {a : Answer} {s t : State} (h : execAwaitPayload a s = .next t) :
    StageEffect s (.awaitPayload a) t := by
  obtain ⟨hs, ⟨bs, c, sm, rfl, hc, hl, hsm, hb, rfl⟩ | ⟨ha, rfl⟩⟩ := execAwaitPayload_next h
  · exact .payloadOk bs c sm hs hc hl hsm hb
  · exact .payloadFailed a hs ha

theorem execValidate_effect {s t : State} (h : execValidate s = .next t) : StageEffect s .validate t := by
  obtain ⟨hs, sm, hsm, ⟨rfl, rfl⟩ | ⟨h0, rfl⟩⟩ := execValidate_next h
  · exact .summed hs hsm
  · exact .residual sm hs hsm h0

theorem execHeaderCheck_effect {s t : State} (h : execHeaderCheck s = .next t) : StageEffect s .headerCheck t := by
  obtain ⟨hs, x, e, hx, he, ⟨rfl, rfl⟩ | ⟨hn, rfl⟩⟩ := execHeaderCheck_next h
  · exact .sameHeader x hs hx he
  · exact .otherHeader x e hs hx he hn

theorem execSuccess_effect {s t : State} (h : execSuccess s = .next t) : StageEffect s .success t := by
  obtain ⟨hs, l, u, hl, hu, hf, rfl⟩ := execSuccess_next h
  exact .success l u hs hl hu hf

theorem exec_extract_effect (k : Fin 9) {s t : State} (h : exec (Instr.extract k) s = .next t) :
    Effect s (Instr.extract k) t := by
  rw [exec_extract, orFault_next_eq] at h
  obtain ⟨raw, hr, rfl⟩ := extractInto_eq_ok.mp h
  exact .field (.extract k raw hr)

theorem exec_scale_effect (j : Fin 7) {s t : State} (h : exec (Instr.scale j) s = .next t) :
    Effect s (Instr.scale j) t := by
  rw [exec_scale, orFault_next_eq] at h
  obtain ⟨v, hv, rfl⟩ := scaleInto_eq_ok.mp h
  exact .field (.scale j v hv)

theorem execTRead_effect {n : Nat} {s t : State} (h : execTRead n s = .next t) : OutsideEffect s (.tRead n) t := by
  obtain ⟨-, ⟨hb, hq, hr, rfl⟩ | ⟨hb, rfl⟩⟩ := execTRead_next h
  · exact .blockRead n hb hq hr
  · exact .callerRead n hb

theorem execStart_effect {e : Byte} {s t : State} (h : execStart e s = .next t) : Effect s (.start e) t := by
  obtain ⟨hb, rfl⟩ | ⟨hb, rfl⟩ := execStart_next h
  · exact .ignored e hb
  · exact .begun e hb

theorem exec_effect {i : Instr} {s t : State} (h : exec i s = .next t) : Effect s i t := by
  cases i with
  | start e => exact execStart_effect h
  | awaitHeader a => exact .stage (execAwaitHeader_effect h)
  | awaitLength a => exact .stage (execAwaitLength_effect h)
  | awaitPayload a => exact .stage (execAwaitPayload_effect h)
  | validate => exact .stage (execValidate_effect h)
  | headerCheck => exact .stage (execHeaderCheck_effect h)
  | success => exact .stage (execSuccess_effect h)
  | unpack => exact .field (.unpack t (orFault_next_eq.mp h))
  | sext24 raw => cases h; exact .outside (.sext24 raw)
  | extract0 => exact exec_extract_effect 0 h
  | extract1 => exact exec_extract_effect 1 h
  | extract2 => exact exec_extract_effect 2 h
  | extract3 => exact exec_extract_effect 3 h
  | extract4 => exact exec_extract_effect 4 h
  | extract5 => exact exec_extract_effect 5 h
  | extract6 => exact exec_extract_effect 6 h
  | extract7 => exact exec_extract_effect 7 h
  | extract8 => exact exec_extract_effect 8 h
  | scale2 => exact exec_scale_effect 0 h
  | scale3 => exact exec_scale_effect 1 h
  | scale4 => exact exec_scale_effect 2 h
  | scale5 => exact exec_scale_effect 3 h
  | scale6 => exact exec_scale_effect 4 h
  | scale7 => exact exec_scale_effect 5 h
  | scale8 => exact exec_scale_effect 6 h
  | tOpen p o => rw [execTOpen_next h]; exact .outside (.tOpen p o _ _)
  | tRead n => exact .outside (execTRead_effect h)
  | tWrite bs n => rw [execTWrite_next h]; exact .outside (.tWrite bs n _ _)
  | tReset => cases h; exact .outside .tReset
  | tClose => cases h; exact .outside .tClose
  | reset => cases h; exact .reset
  | frame hd l data c => cases h; exact .outside (.frame hd l data c)
  | telemetryReport data c => cases h; exact .outside (.telemetryReport data c)

theorem OutsideEffect.sameRegisters {s t : State} {i : Instr} (h : OutsideEffect s i t) : SameRegisters s t := by
  cases h with
  | blockRead n _ _ _ => exact (sameRegisters_endRead n s).trans rfl
  | callerRead n _ => exact (sameRegisters_transportRead n s).trans rfl
  | _ => rfl

theorem FieldEffect.sameButFields {s t : State} {i : Instr} (h : FieldEffect s i t) : SameButFields s t := by
  cases h with
  | unpack t h => exact unpackInto_same h
  | extract k raw _ => rfl
  | scale j v _ => rfl

/-! ### The writers of each register -/

/-- The frame reader's registers and the buffer stand. -/
structure ReaderStands (s t : State) : Prop where
  expHdr : t.expHdr = s.expHdr
  hdr : t.hdr = s.hdr
  len : t.len = s.len
  cnt : t.cnt = s.cnt
  sum : t.sum = s.sum
  outLen : t.outLen = s.outLen
  buf : t.buf = s.buf

theorem SameRegisters.reader {s t : State} (h : SameRegisters s t) : ReaderStands s t := by
  rw [h]
  exact ⟨rfl, rfl, rfl, rfl, rfl, rfl, rfl⟩

theorem SameButFields.reader {s t : State} (h : SameButFields s t) : ReaderStands s t := by
  rw [h]
  exact ⟨rfl, rfl, rfl, rfl, rfl, rfl, rfl⟩

/-- The registers of the frame reader that an operation may have written, and the buffer (R14 to R19, R24). -/
structure ReaderWrites (i : Instr) (s t : State) : Prop where
  expHdr : t.expHdr = s.expHdr
  hdr : t.hdr = s.hdr ∨ ∃ b, i = .awaitHeader (.ok [b])
  len : t.len = s.len ∨ ∃ b, i = .awaitLength (.ok [b])
  cnt : t.cnt = s.cnt ∨ ∃ b, i = .awaitLength (.ok [b]) ∧ 3 ≤ b.toNat
  sum : t.sum = s.sum ∨ ∃ bs, i = .awaitHeader (.ok bs) ∨ i = .awaitLength (.ok bs) ∨ i = .awaitPayload (.ok bs)
  outLen : t.outLen = s.outLen ∨ i = .success
  buf : t.buf = s.buf ∨ ∃ bs, i = .awaitPayload (.ok bs)

theorem ReaderStands.writes {s t : State} (h : ReaderStands s t) (i : Instr) : ReaderWrites i s t :=
  ⟨h.expHdr, .inl h.hdr, .inl h.len, .inl h.cnt, .inl h.sum, .inl h.outLen, .inl h.buf⟩

theorem StageEffect.readerWrites {s t : State} {i : Instr} (h : StageEffect s i t) : ReaderWrites i s t := by
  cases h with
  | headerOk b hs =>
    exact ⟨rfl, .inr ⟨b, rfl⟩, .inl rfl, .inl rfl, .inr ⟨[b], .inl rfl⟩, .inl rfl, .inl rfl⟩
  | lengthOk b sm hs hsm hb =>
    exact ⟨rfl, .inl rfl, .inr ⟨b, rfl⟩, .inr ⟨b, rfl, hb⟩, .inr ⟨[b], .inr (.inl rfl)⟩, .inl rfl, .inl rfl⟩
  | lengthBad b sm hs hsm hb =>
    exact ⟨rfl, .inl rfl, .inr ⟨b, rfl⟩, .inl rfl, .inr ⟨[b], .inr (.inl rfl)⟩, .inl rfl, .inl rfl⟩
  | payloadOk bs c sm hs hc hl hsm hb =>
    exact ⟨rfl, .inl rfl, .inl rfl, .inl rfl, .inr ⟨bs, .inr (.inr rfl)⟩, .inl rfl, .inr ⟨bs, rfl⟩⟩
  | success l u hs hl hu hf =>
    rw [hf]
    exact ⟨rfl, .inl rfl, .inl rfl, .inl rfl, .inl rfl, .inr rfl, .inl rfl⟩
  | headerFailed | lengthFailed | payloadFailed | summed | residual | sameHeader | otherHeader =>
    exact ⟨rfl, .inl rfl, .inl rfl, .inl rfl, .inl rfl, .inl rfl, .inl rfl⟩

theorem exec_readerWrites {i : Instr} {s t : State} (h : exec i s = .next t) (h1 : ∀ e, i ≠ .start e)
    (h2 : i ≠ .reset) : ReaderWrites i s t := by
  cases exec_effect h with
  | ignored e hb => exact absurd rfl (h1 e)
  | begun e hb => exact absurd rfl (h1 e)
  | reset => exact absurd rfl h2
  | stage h => exact h.readerWrites
  | field h => exact h.sameButFields.reader.writes i
  | outside h => exact h.sameRegisters.reader.writes i

/-- Settles O42, from what each operation may have written of the frame reader. -/
theorem registersHaveTheirOwnWriters : Obligations.RegistersHaveTheirOwnWriters := by
  intro i s t h h1 h2
  obtain ⟨hexp, hhdr, hlen, hcnt, hsum, hout, hbuf⟩ := exec_readerWrites h h1 h2
  refine ⟨hexp, hhdr.resolve_left, hlen.resolve_left, hcnt.resolve_left, hsum.resolve_left, hout.resolve_left, ?_⟩
  intro hp a
  rw [hbuf.resolve_right (not_exists.mpr hp)]

/-! ### The writers of each field and value -/

theorem SameRegisters.fields {s t : State} (h : SameRegisters s t) : t.fld = s.fld ∧ t.val = s.val := by
  rw [h]
  exact ⟨rfl, rfl⟩

/-- Of the stage operations only `SUCCESS` moves a field or a value. -/
theorem StageEffect.fields {s t : State} {i : Instr} (h : StageEffect s i t) (hi : i ≠ .success) :
    t.fld = s.fld ∧ t.val = s.val := by
  cases h with
  | success => exact absurd rfl hi
  | _ => exact ⟨rfl, rfl⟩

/-- An extraction or a scaling moves its own register only (R143 to R151, R172 to R178). -/
theorem FieldEffect.writers {s t : State} {i : Instr} (h : FieldEffect s i t) (hi : i ≠ .unpack) :
    (∀ k : Fin 9, t.fld[k] ≠ s.fld[k] → i = Instr.extract k) ∧ ∀ j : Fin 7, t.val[j] ≠ s.val[j] → i = Instr.scale j := by
  cases h with
  | unpack => exact absurd rfl hi
  | extract k raw hr =>
    refine ⟨fun k' hk => ?_, fun j hj => absurd rfl hj⟩
    by_contra hne
    have hkk : k.val ≠ k'.val := fun he => hne (by rw [Fin.ext he])
    exact hk (Vector.getElem_set_ne k.isLt k'.isLt hkk)
  | scale j v hv =>
    refine ⟨fun k hk => absurd rfl hk, fun j' hj => ?_⟩
    by_contra hne
    have hjj : j.val ≠ j'.val := fun he => hne (by rw [Fin.ext he])
    exact hj (Vector.getElem_set_ne j.isLt j'.isLt hjj)

/-- Settles O43: only an extraction or a scaling is left, and each writes one place. -/
theorem fieldsHaveTheirOwnWriters : Obligations.FieldsHaveTheirOwnWriters := by
  intro i s t h h1 h2 h3 h4
  have stand : t.fld = s.fld ∧ t.val = s.val →
      (∀ k : Fin 9, t.fld[k] ≠ s.fld[k] → i = Instr.extract k) ∧
        ∀ j : Fin 7, t.val[j] ≠ s.val[j] → i = Instr.scale j :=
    fun ⟨hf, hv⟩ => ⟨fun k hk => absurd (by rw [hf]) hk, fun j hj => absurd (by rw [hv]) hj⟩
  cases exec_effect h with
  | ignored e hb => exact absurd rfl (h1 e)
  | begun e hb => exact absurd rfl (h1 e)
  | reset => exact absurd rfl h2
  | stage h => exact stand (h.fields h3)
  | field h => exact h.writers h4
  | outside h => exact stand h.sameRegisters.fields

/-! ### What the block leaves of the Transport -/

/-- The parameters, the schedule, the Transport but for its minimum count, and the model's own fields stand: at most the
block's registers, its two channels and the minimum count differ. -/
def TransportStands (s t : State) : Prop :=
  t = { s with
    st := t.st, status := t.status, expHdr := t.expHdr, hdr := t.hdr, len := t.len, cnt := t.cnt, sum := t.sum
    outLen := t.outLen, buf := t.buf, fld := t.fld, val := t.val, req := t.req, rsp := t.rsp, vmin := t.vmin }

theorem SameButFields.transport {s t : State} (h : SameButFields s t) : TransportStands s t := by
  rw [h]
  rfl

/-- The minimum count stands, or an operation that issues a request has set it on an open handle (R92). -/
def CountMoves (i : Instr) (s t : State) : Prop :=
  t.vmin = s.vmin ∨
    (((∃ e, i = .start e) ∨ (∃ b, i = .awaitHeader (.ok [b])) ∨ ∃ b, i = .awaitLength (.ok [b])) ∧
      s.handle ≠ none ∧ ∃ n, t.req = some n ∧ t.vmin = .count n)

/-- The end of an operation that issues a request of `n` bytes. -/
theorem countMoves_issue {i : Instr} {s u : State} (n : Nat) (hv : u.vmin = s.vmin) (hh : u.handle = s.handle)
    (hi : (∃ e, i = .start e) ∨ (∃ b, i = .awaitHeader (.ok [b])) ∨ ∃ b, i = .awaitLength (.ok [b])) :
    CountMoves i s (u.issue n) := by
  unfold CountMoves
  rw [State.issue_vmin, hh, hv]
  split
  · rename_i ho
    exact .inr ⟨hi, Option.isSome_iff_ne_none.mp ho, n, rfl, rfl⟩
  · exact .inl rfl

theorem StageEffect.transport {s t : State} {i : Instr} (h : StageEffect s i t) :
    TransportStands s t ∧ CountMoves i s t := by
  cases h with
  | headerOk b hs =>
    exact ⟨rfl, countMoves_issue 1 rfl rfl (.inr (.inl ⟨b, rfl⟩))⟩
  | lengthOk b sm hs hsm hb =>
    exact ⟨rfl, countMoves_issue _ rfl rfl (.inr (.inr ⟨b, rfl⟩))⟩
  | success l u hs hl hu hf =>
    rw [hf]
    exact ⟨rfl, .inl rfl⟩
  | lengthBad | payloadOk | headerFailed | lengthFailed | payloadFailed | summed | residual | sameHeader
  | otherHeader =>
    exact ⟨rfl, .inl rfl⟩

theorem countMoves_begin (e : Byte) (s : State) : CountMoves (.start e) s (s.begin e) :=
  countMoves_issue 1 rfl rfl (.inl ⟨e, rfl⟩)

/-- Which operations move what of the Transport, the parameters and the model's own fields (R92 to R96, R231). -/
structure TransportWrites (i : Instr) (s t : State) : Prop where
  cfg : t.cfg = s.cfg
  schedule : t.schedule = s.schedule
  handle : (∀ p o, i ≠ .tOpen p o) → i ≠ .tClose → t.handle = s.handle
  sent : (∀ bs n, i ≠ .tWrite bs n) → t.sent = s.sent
  vmin : (∀ n, i ≠ .tRead n) → i ≠ .tReset → CountMoves i s t
  stream : (∀ n, i ≠ .tRead n) → (∀ h l d c, i ≠ .frame h l d c) → (∀ d c, i ≠ .telemetryReport d c) → i ≠ .reset →
    t.wire = s.wire ∧ t.debt = s.debt ∧ t.tick = s.tick
  tret : (∀ p o, i ≠ .tOpen p o) → (∀ n, i ≠ .tRead n) → (∀ bs n, i ≠ .tWrite bs n) → i ≠ .tReset → i ≠ .tClose →
    t.tret = s.tret
  abandoned : i ≠ .reset → t.abandoned = s.abandoned
  sextOut : (∀ raw, i ≠ .sext24 raw) → t.sextOut = s.sextOut

theorem TransportStands.writes {i : Instr} {s t : State} (h : TransportStands s t) (hv : CountMoves i s t) :
    TransportWrites i s t := by
  rw [h]
  exact ⟨rfl, rfl, fun _ _ => rfl, fun _ => rfl, fun _ _ => hv, fun _ _ _ _ => ⟨rfl, rfl, rfl⟩, fun _ _ _ _ _ => rfl,
    fun _ => rfl, fun _ => rfl⟩

theorem reset_transportWrites (s : State) : TransportWrites .reset s s.abandon.resetBlock := by
  constructor <;> simp [CountMoves]

/-- Of what an operation outside the block writes, no part is asked to stand of that operation. -/
theorem OutsideEffect.transportWrites {s t : State} {i : Instr} (h : OutsideEffect s i t) : TransportWrites i s t := by
  cases h <;> constructor <;> simp [CountMoves]

/-- Settles O44, from what each operation may have moved of the Transport. -/
theorem blockOperationsLeaveTheTransport : Obligations.BlockOperationsLeaveTheTransport := by
  intro i s t h
  have hw : TransportWrites i s t := by
    cases exec_effect h with
    | ignored e hb => exact TransportStands.writes rfl (.inl rfl)
    | begun e hb => exact TransportStands.writes rfl (countMoves_begin e s)
    | reset => exact reset_transportWrites s
    | stage h => exact h.transport.1.writes h.transport.2
    | field h => exact h.sameButFields.transport.writes (.inl (by rw [h.sameButFields]))
    | outside h => exact h.transportWrites
  exact ⟨hw.cfg, hw.schedule, hw.handle, hw.sent, hw.vmin, hw.stream, hw.tret, hw.abandoned, hw.sextOut⟩

/-! ### The invariant: what it depends on, and what it says in every stage -/

theorem State.holds_iff (s : State) (h l : Byte) (body : List Byte) :
    s.Holds h l body ↔ s.hdr = some h ∧ s.len = some l ∧ Config.lenMin ≤ l.toNat ∧ body.length = l.toNat - 2 ∧
      s.cnt = some (l - 2) ∧ s.buf = Memory.setBytes [] 0 body ∧ s.sum = some (sum8 (h :: l :: body)) :=
  ⟨fun ⟨h1, h2, h3, h4, h5, h6, h7⟩ => ⟨h1, h2, h3, h4, h5, h6, h7⟩,
    fun ⟨h1, h2, h3, h4, h5, h6, h7⟩ => ⟨h1, h2, h3, h4, h5, h6, h7⟩⟩

/-- What holds in a stage is said of the parameters, the block's registers and the request. -/
theorem SameRegisters.stageInv {s t : State} (h : SameRegisters s t) (hi : s.StageInv) : t.StageInv := by
  rw [h]
  simp only [State.StageInv, State.holds_iff] at hi ⊢
  exact hi

theorem State.Inv.of_sameRegisters {s t : State} (hi : s.Inv) (h : SameRegisters s t)
    (ha : ∀ a, t.rsp = some a → ∃ n, s.req = some n ∧ a.fits n = true) : t.Inv where
  mem := by rw [h]; exact hi.mem
  answer := by rw [show t.req = s.req by rw [h]]; exact ha
  stage := h.stageInv hi.stage

/-- An act that leaves the answer channel too keeps the invariant. -/
theorem State.Inv.of_outside {s t : State} (hi : s.Inv) (h : SameRegisters s t) (hr : t.rsp = s.rsp) : t.Inv :=
  hi.of_sameRegisters h (by rw [hr]; exact hi.answer)

theorem State.Inv.withSchedule {s : State} (hi : s.Inv) (evs : List Event) : ({ s with schedule := evs } : State).Inv :=
  hi.of_outside rfl rfl

/-- With nothing asked there is no answer (R25). -/
theorem State.Inv.rsp_none {s : State} (hi : s.Inv) (hq : s.req = none) : s.rsp = none := by
  cases hr : s.rsp with
  | none => rfl
  | some a =>
    obtain ⟨n, hn, _⟩ := hi.answer a hr
    rw [hq] at hn
    cases hn

/-- The answer to a read of `n` bytes has the length asked for (R92). -/
theorem State.Inv.fits {s : State} {a : Answer} {n : Nat} (hi : s.Inv) (hr : s.rsp = some a) (hq : s.req = some n) :
    a.fits n = true := by
  obtain ⟨m, hm, hf⟩ := hi.answer a hr
  rw [hq] at hm
  cases hm
  exact hf

/-- While an invocation runs the expected header is known and nothing is published (R111, R197). -/
theorem State.Inv.of_busy {s : State} (hi : s.Inv) (hb : s.busy = true) : s.expHdr.isSome = true ∧ s.NoOutputs := by
  have hst := hi.stage
  unfold State.StageInv at hst
  cases hs : s.st <;> rw [hs] at hst
  case idle | done => simp [State.busy, hs] at hb
  case awaitHeader | awaitLength =>
    obtain ⟨_, he, _, _, _, _, _, ho, _⟩ := hst
    exact ⟨he, ho⟩
  case awaitPayload =>
    obtain ⟨_, he, _, ho, _⟩ := hst
    exact ⟨he, ho⟩
  case validate | headerCheck =>
    obtain ⟨_, he, ho, _⟩ := hst
    exact ⟨he, ho⟩
  case success =>
    obtain ⟨_, ho, _, _, _, _, _, _, he⟩ := hst
    exact ⟨by rw [he]; rfl, ho⟩

/-- A waiting block has asked for at least one byte (R92, R112 to R114). -/
theorem State.Inv.of_waiting {s : State} (hi : s.Inv) (hw : s.waiting = true) : ∃ n, s.req = some n ∧ n ≠ 0 := by
  have hst := hi.stage
  unfold State.StageInv at hst
  cases hs : s.st <;> rw [hs] at hst
  case awaitHeader | awaitLength =>
    obtain ⟨_, _, _, _, _, _, _, _, hq⟩ := hst
    exact ⟨1, hq, by decide⟩
  case awaitPayload =>
    obtain ⟨_, _, _, _, h, l, _, _, hl, _, _, hq⟩ := hst
    have h3 : Config.lenMin = 3 := rfl
    exact ⟨l.toNat - 2, hq, by omega⟩
  case idle | validate | headerCheck | success | done => simp [State.waiting, hs] at hw

/-- A failure ends an invocation in a state that meets the invariant (R196). -/
theorem inv_raise {u : State} (k : Failure) (hm : u.buf.wf = true) (hq : u.req = none) (hr : u.rsp = none)
    (ho : u.expHdr.isSome = true ∧ u.NoOutputs) : (u.raise k).Inv where
  mem := hm
  answer a ha := by rw [State.raise_rsp, hr] at ha; cases ha
  stage := ⟨ho.1, hq, .inl ⟨k, rfl, ho.2⟩⟩

theorem State.Inv.answered_raise {s : State} (hi : s.Inv) (hb : s.busy = true) (k : Failure) :
    (s.answered.raise k).Inv :=
  inv_raise k hi.mem rfl rfl (hi.of_busy hb)

theorem State.reset_inv : State.reset.Inv where
  mem := rfl
  answer a ha := by cases ha
  stage := ⟨rfl, rfl, rfl, rfl, rfl, rfl, rfl, ⟨rfl, rfl, rfl⟩, rfl⟩

/-- Settles O46: no register holds a value and nothing is outstanding. -/
theorem resetStateMeetsTheInvariant : Obligations.ResetStateMeetsTheInvariant := State.reset_inv

/-- `START` needs no invariant before it: it writes every register of the block (R111). -/
theorem State.begin_inv (e : Byte) (s : State) : (s.begin e).Inv where
  mem := rfl
  answer a ha := by cases ha
  stage := ⟨rfl, rfl, rfl, rfl, rfl, rfl, rfl, ⟨rfl, rfl, rfl⟩, rfl⟩

/-- Nor does `RESET` (R230). -/
theorem State.resetBlock_inv (s : State) : s.abandon.resetBlock.Inv where
  mem := rfl
  answer a ha := by
    rw [State.resetBlock_rsp, State.abandon_rsp] at ha
    cases ha
  stage := ⟨rfl, rfl, rfl, rfl, rfl, rfl, rfl, ⟨rfl, rfl, rfl⟩, s.abandon_req⟩

/-! ### The block's own operations in their stages -/

/-- An outcome that is a next state which meets the invariant. -/
def GoesOn (r : Result) : Prop := ∃ t, r = .next t ∧ t.Inv

theorem goesOn_next {t : State} (h : t.Inv) : GoesOn (.next t) := ⟨t, rfl, h⟩

/-- A one-byte read is answered by one byte or fails (R92). -/
theorem Answer.fits_one {a : Answer} (h : a.fits 1 = true) : (∃ b, a = .ok [b]) ∨ a = .shortRead ∨ a = .unavailable := by
  cases a with
  | ok bs =>
    obtain ⟨b, rfl⟩ := List.length_eq_one_iff.mp (beq_iff_eq.mp h)
    exact .inl ⟨b, rfl⟩
  | shortRead => exact .inr (.inl rfl)
  | unavailable => exact .inr (.inr rfl)

theorem execAwaitHeader_goesOn {s : State} {a : Answer} (hi : s.Inv) (hs : s.st = .awaitHeader) (hr : s.rsp = some a) :
    GoesOn (execAwaitHeader a s) := by
  have hst := hi.stage
  simp only [State.StageInv, hs] at hst
  obtain ⟨hn, he, _, hl, hc, _, hbuf, ho, hq⟩ := hst
  have hb : s.busy = true := by simp [State.busy, hs]
  obtain ⟨b, rfl⟩ | rfl | rfl := Answer.fits_one (hi.fits hr hq) <;> unfold execAwaitHeader <;> rw [inStage_same hs]
  · exact goesOn_next
      { mem := hi.mem
        answer := fun a ha => by cases ha
        stage := ⟨hn, he, rfl, rfl, hl, hc, hbuf, ho, rfl⟩ }
  · exact goesOn_next (hi.answered_raise hb _)
  · exact goesOn_next (hi.answered_raise hb _)

theorem execAwaitLength_failed {s : State} {a : Answer} (hs : s.st = .awaitLength) (ha : a = .shortRead ∨ a = .unavailable) :
    execAwaitLength a s = .next (s.answered.raise .timeout) := by
  unfold execAwaitLength
  rw [inStage_same hs]
  obtain rfl | rfl := ha <;> rfl

theorem execAwaitPayload_failed {s : State} {a : Answer} (hs : s.st = .awaitPayload)
    (ha : a = .shortRead ∨ a = .unavailable) : execAwaitPayload a s = .next (s.answered.raise .timeout) := by
  unfold execAwaitPayload
  rw [inStage_same hs]
  obtain rfl | rfl := ha <;> rfl

theorem execAwaitLength_goesOn {s : State} {a : Answer} (hi : s.Inv) (hs : s.st = .awaitLength) (hr : s.rsp = some a) :
    GoesOn (execAwaitLength a s) := by
  have hst := hi.stage
  simp only [State.StageInv, hs] at hst
  obtain ⟨hn, he, hh, hsum, _, _, hbuf, ho, hq⟩ := hst
  have hb : s.busy = true := by simp [State.busy, hs]
  obtain ⟨x, hx⟩ := Option.isSome_iff_exists.mp hh
  obtain ⟨b, rfl⟩ | ha := Answer.fits_one (hi.fits hr hq)
  · rw [execAwaitLength_eq b hs (hsum.trans hx)]
    split
    · exact goesOn_next (inv_raise _ hi.mem rfl rfl (hi.of_busy hb))
    · exact goesOn_next
        { mem := hi.mem
          answer := fun a ha => by cases ha
          stage := ⟨hn, he, hbuf, ho, x, b, hx, rfl, Nat.le_of_not_lt ‹_›, rfl, rfl, rfl⟩ }
  · rw [execAwaitLength_failed hs ha]
    exact goesOn_next (hi.answered_raise hb _)

/-- `cnt = len - 2` as numbers, for a length byte of at least 3 (R17). -/
theorem toNat_sub_two {l : Byte} (hl : Config.lenMin ≤ l.toNat) : (l - 2).toNat = l.toNat - 2 := by
  have h3 : Config.lenMin = 3 := rfl
  bv_omega

theorem execAwaitPayload_goesOn {s : State} {a : Answer} (hi : s.Inv) (hs : s.st = .awaitPayload)
    (hr : s.rsp = some a) : GoesOn (execAwaitPayload a s) := by
  have hst := hi.stage
  simp only [State.StageInv, hs] at hst
  obtain ⟨hn, he, hbuf, ho, h, l, hh, hl, h3, hc, hsum, hq⟩ := hst
  have hb : s.busy = true := by simp [State.busy, hs]
  have hf := hi.fits hr hq
  cases a with
  | ok bs =>
    have hlen : bs.length = l.toNat - 2 := beq_iff_eq.mp hf
    have hdep : 0 + bs.length ≤ Config.bufDepth := by
      have := l.isLt
      have h253 : Config.bufDepth = 253 := rfl
      omega
    rw [execAwaitPayload_eq hs hc hsum (hlen.trans (toNat_sub_two h3).symm) (by omega), hbuf]
    have holds : State.Holds { s.answered with
        buf := Memory.setBytes [] 0 bs, sum := some (h + l + sum8 bs), st := .validate } h l bs :=
      ⟨hh, hl, h3, hlen, hc, rfl, by rw [sum8_cons, sum8_cons, BitVec.add_assoc]⟩
    exact goesOn_next
      { mem := Memory.setBytes_wf Memory.wf_nil hdep
        answer := fun a ha => by cases ha
        stage := ⟨hn, he, ho, rfl, h, l, bs, holds⟩ }
  | shortRead =>
    rw [execAwaitPayload_failed hs (.inl rfl)]
    exact goesOn_next (hi.answered_raise hb _)
  | unavailable =>
    rw [execAwaitPayload_failed hs (.inr rfl)]
    exact goesOn_next (hi.answered_raise hb _)

/-- The frame under assembly stands when only the stage moves. -/
theorem State.Holds.withStage {s : State} {h l : Byte} {body : List Byte} (hh : s.Holds h l body) (st : Stage) :
    State.Holds { s with st := st } h l body :=
  ⟨hh.hdr, hh.len, hh.atLeast, hh.size, hh.cnt, hh.buf, hh.sum⟩

theorem execValidate_goesOn {s : State} (hi : s.Inv) (hs : s.st = .validate) : GoesOn (execValidate s) := by
  have hst := hi.stage
  simp only [State.StageInv, hs] at hst
  obtain ⟨hn, he, ho, hq, h, l, body, hh⟩ := hst
  rw [execValidate_eq hs hh.sum]
  split
  · rename_i h0
    exact goesOn_next
      { mem := hi.mem
        answer := hi.answer
        stage := ⟨hn, he, ho, hq, h, l, body, hh.withStage _, h0⟩ }
  · exact goesOn_next (inv_raise _ hi.mem hq (hi.rsp_none hq) ⟨he, ho⟩)

theorem execHeaderCheck_goesOn {s : State} (hi : s.Inv) (hs : s.st = .headerCheck) : GoesOn (execHeaderCheck s) := by
  have hst := hi.stage
  simp only [State.StageInv, hs] at hst
  obtain ⟨hn, he, ho, hq, h, l, body, hh, h0⟩ := hst
  obtain ⟨e, hexp⟩ := Option.isSome_iff_exists.mp he
  rw [execHeaderCheck_eq hs hh.hdr hexp]
  split
  · rename_i hx
    exact goesOn_next
      { mem := hi.mem
        answer := hi.answer
        stage := ⟨hn, ho, hq, h, l, body, hh.withStage _, h0, hx ▸ hexp⟩ }
  · exact goesOn_next (inv_raise _ hi.mem hq (hi.rsp_none hq) ⟨he, ho⟩)

/-- `UNPACK` on the length and the body of a frame in the buffer publishes what the invariant asks (R117, R141). -/
theorem unpackInto_published {s : State} {l : Byte} {body : List Byte} (hl : Config.lenMin ≤ l.toNat)
    (hsize : body.length = l.toNat - 2) (hbuf : s.buf = Memory.setBytes [] 0 body) (hout : s.outLen = some (l - 3)) :
    ∃ u, unpackInto s = .ok u ∧ u.Published l body := by
  have h3 : Config.lenMin = 3 := rfl
  by_cases h30 : l = 30
  · subst h30
    have htake : (body.take 27).length = 27 := by rw [List.length_take, hsize]; rfl
    have hread : Memory.read s.buf 0 27 = .ok (body.take 27) := by
      rw [hbuf]
      exact Memory.read_setBytes _ (by rw [hsize]; decide) (by rw [hsize]; decide)
    obtain ⟨v, hv⟩ : ∃ v, unpackPayload (body.take 27) = some v := ⟨_, if_pos htake⟩
    refine ⟨_, unpackInto_full hout hread hv, hout, ?_⟩
    rw [show (30 : Byte).toNat - 3 = 27 from rfl, hv]
    exact ⟨rfl, rfl⟩
  · have hne : (body.take (l.toNat - 3)).length ≠ 27 := by
      rw [List.length_take, hsize]
      bv_omega
    refine ⟨_, unpackInto_short hout (by bv_omega), hout, ?_⟩
    rw [show unpackPayload (body.take (l.toNat - 3)) = none from if_neg hne]
    exact ⟨rfl, rfl⟩

theorem execSuccess_goesOn {s : State} (hi : s.Inv) (hs : s.st = .success) : GoesOn (execSuccess s) := by
  have hst := hi.stage
  simp only [State.StageInv, hs] at hst
  obtain ⟨_, _, hq, h, l, body, hh, h0, hexp⟩ := hst
  obtain ⟨u, hu, hp⟩ := unpackInto_published (s := { s with outLen := some (l - 3), status := .ok }) hh.atLeast hh.size
    hh.buf rfl
  have hsame := unpackInto_same hu
  rw [execSuccess_eq hs hh.len hu]
  rw [hsame] at hp ⊢
  have holds : State.Holds { s with
      outLen := some (l - 3), status := .ok, st := .done, fld := u.fld, val := u.val } h l body :=
    ⟨hh.hdr, hh.len, hh.atLeast, hh.size, hh.cnt, hh.buf, hh.sum⟩
  exact goesOn_next
    { mem := hi.mem
      answer := hi.answer
      stage := ⟨by rw [hexp]; rfl, hq, .inr ⟨rfl, h, l, body, holds, h0, hexp, hp⟩⟩ }

/-- The block's own read, of the size asked for (R92, R100). -/
theorem execTRead_goesOn {s : State} {n : Nat} (hi : s.Inv) (hb : s.busy = true) (hq : s.req = some n)
    (hr : s.rsp = none) (h0 : n ≠ 0) : GoesOn (execTRead n s) := by
  unfold execTRead
  rw [if_neg h0, if_pos hb, if_pos ⟨hq, hr⟩]
  refine goesOn_next (hi.of_sameRegisters ((sameRegisters_endRead n s).trans rfl) fun a ha => ⟨n, hq, ?_⟩)
  cases ha
  exact endRead_fits n s

/-! ### A step -/

/-- What a step does with what it selected. -/
def Fetched.outcome : Fetched → Result
  | .run i t => exec i t
  | .stay t => .next t
  | .refuse r => .refused r

theorem step_eq_outcome (s : State) : step s = (fetch s).outcome := by
  unfold step
  cases fetch s <;> rfl

/-- A waiting stage whose operation goes on with the answer goes on. -/
theorem selectWaiting_goesOn {s : State} {op : Answer → Instr} (hi : s.Inv) (hw : s.waiting = true)
    (hop : ∀ a, s.rsp = some a → GoesOn (exec (op a) s)) : GoesOn (selectWaiting op s).outcome := by
  obtain ⟨n, hq, h0⟩ := hi.of_waiting hw
  unfold selectWaiting
  cases hr : s.rsp with
  | some a => exact hop a hr
  | none =>
    rw [hq]
    cases s.cfg.transport with
    | reference => exact execTRead_goesOn hi (by simp [State.busy_eq, hw]) hq hr h0
    | oracle => exact goesOn_next hi

/-- The block's own turn answers a next state in every stage. -/
theorem selectBlock_goesOn {s : State} (hi : s.Inv) : GoesOn (selectBlock s).outcome := by
  unfold selectBlock
  cases hs : s.st with
  | idle => exact goesOn_next hi
  | awaitHeader =>
    exact selectWaiting_goesOn hi (by simp [State.waiting, hs]) fun a => execAwaitHeader_goesOn hi hs
  | awaitLength =>
    exact selectWaiting_goesOn hi (by simp [State.waiting, hs]) fun a => execAwaitLength_goesOn hi hs
  | awaitPayload =>
    exact selectWaiting_goesOn hi (by simp [State.waiting, hs]) fun a => execAwaitPayload_goesOn hi hs
  | validate => exact execValidate_goesOn hi hs
  | headerCheck => exact execHeaderCheck_goesOn hi hs
  | success => exact execSuccess_goesOn hi hs
  | done => exact goesOn_next hi

/-- An outcome that is no fault, and whose next state, if it is one, meets the invariant. -/
def SafeResult (r : Result) : Prop := (∀ f, r ≠ .fault f) ∧ ∀ t, r = .next t → t.Inv

theorem GoesOn.safe {r : Result} (h : GoesOn r) : SafeResult r := by
  obtain ⟨t, rfl, ht⟩ := h
  constructor <;> intro _ h <;> cases h
  exact ht

theorem safeResult_refused (r : Refusal) : SafeResult (.refused r) := by
  constructor <;> intro _ h <;> cases h

theorem safeResult_next {t : State} (h : t.Inv) : SafeResult (.next t) := (goesOn_next h).safe

/-- An act that moves nothing of the block is safe. -/
theorem safeResult_outside {s t : State} (hi : s.Inv) (h : SameRegisters s t) (hr : t.rsp = s.rsp) :
    SafeResult (.next t) :=
  safeResult_next (hi.of_outside h hr)

theorem execStart_safe {s : State} (e : Byte) (hi : s.Inv) : SafeResult (execStart e s) := by
  unfold execStart
  split
  · exact safeResult_next hi
  · exact safeResult_next (s.begin_inv e)

/-- A decoded frame, run as the operation it is, delivers its bytes (R61). -/
theorem exec_frameOf (h l : Byte) (data : List Byte) (c : Byte) (s : State) :
    exec (frameOf h l data c) s = .next (s.deliver (frameBytes h l data c)) := by
  unfold frameOf
  split
  · rename_i ht
    simp only [isTelemetryHead, Bool.and_eq_true, beq_iff_eq] at ht
    rw [ht.1, ht.2]
    rfl
  · rfl

theorem deliver_safe {s : State} (hi : s.Inv) (bs : List Byte) : SafeResult (.next (s.deliver bs)) :=
  safeResult_outside hi (sameRegisters_deliver s bs) rfl

theorem selectWire_safe {s : State} (hi : s.Inv) (bs : List Byte) : SafeResult (selectWire bs s).outcome := by
  unfold selectWire
  cases hd : decodeFrame bs with
  | error e => exact deliver_safe hi bs
  | ok p =>
    obtain ⟨i, rest⟩ := p
    obtain ⟨h, l, data, c, _, _, _, rfl⟩ := decodeFrame_eq_ok hd
    cases rest with
    | nil =>
      simp only [Fetched.outcome, exec_frameOf]
      exact deliver_safe hi _
    | cons b rest =>
      simp only [Fetched.outcome, exec_frameOf]
      exact deliver_safe (hi.withSchedule _) _

theorem selectAnswer_safe {s : State} (hi : s.Inv) (a : Answer) : SafeResult (selectAnswer a s).outcome := by
  unfold selectAnswer
  split
  · exact safeResult_refused _
  · rename_i n _ hq _
    split
    · rename_i hf
      refine safeResult_next (hi.of_sameRegisters ((sameRegisters_consume s n a).trans rfl) fun a' ha => ⟨n, hq, ?_⟩)
      cases ha
      exact hf
    · exact safeResult_refused _
  · exact safeResult_refused _

theorem selectLate_safe {s : State} (hi : s.Inv) : SafeResult (selectLate s).outcome := by
  unfold selectLate
  split
  · exact safeResult_outside hi rfl rfl
  · exact safeResult_refused _

theorem execTOpen_safe {s : State} (hi : s.Inv) (p : List Byte) (o : Bool) : SafeResult (execTOpen p o s) := by
  unfold execTOpen
  split <;> exact safeResult_outside hi rfl rfl

theorem execTWrite_safe {s : State} (hi : s.Inv) (bs : List Byte) (n : Nat) : SafeResult (execTWrite bs n s) := by
  unfold execTWrite
  split <;> exact safeResult_outside hi rfl rfl

/-- The caller's own read, the block at rest (R92). -/
theorem execTRead_safe {s : State} (hi : s.Inv) (n : Nat) (hb : s.busy = false) : SafeResult (execTRead n s) := by
  unfold execTRead
  split
  · exact safeResult_refused _
  · rw [if_neg (by simp [hb])]
    exact safeResult_outside hi ((sameRegisters_transportRead n s).trans rfl) (transportRead_rsp s n)

/-- Every act of an agent is safe, whatever it is. -/
theorem selectEvent_safe {s : State} (hi : s.Inv) (ev : Event) : SafeResult (selectEvent ev s).outcome := by
  cases ev with
  | block => exact (selectBlock_goesOn hi).safe
  | cmd w =>
    simp only [selectEvent]
    cases hd : decodeCommand w with
    | ok i =>
      obtain ⟨-, rfl⟩ := decodeCommand_eq_ok.mp hd
      exact execStart_safe _ hi
    | error e => exact safeResult_refused _
  | rst => exact safeResult_next s.resetBlock_inv
  | wire bs => exact selectWire_safe hi bs
  | answer a => exact selectAnswer_safe hi a
  | lateAnswer a => exact selectLate_safe hi
  | tOpen p o => exact execTOpen_safe hi p o
  | tRead n =>
    unfold selectEvent
    cases hb : s.busy with
    | true => exact safeResult_refused _
    | false => exact execTRead_safe hi n hb
  | tWrite bs n => exact execTWrite_safe hi bs n
  | tReset => exact safeResult_outside hi rfl rfl
  | tClose => exact safeResult_outside hi rfl rfl

theorem step_safe {s : State} (hi : s.Inv) : SafeResult (step s) := by
  rw [step_eq_outcome]
  unfold fetch
  split
  · exact (selectBlock_goesOn hi).safe
  · split
    · exact (selectBlock_goesOn hi).safe
    · exact selectEvent_safe (hi.withSchedule _) _

/-- Settles O47: the block's own turn and every act of an agent keep the invariant. -/
theorem everyStepKeepsTheInvariant : Obligations.EveryStepKeepsTheInvariant :=
  fun _ t hi => (step_safe hi).2 t

/-- Settles O48: no step from the invariant is a fault, and with nothing scheduled the step is the block's own turn. -/
theorem noRuleReadsNoValue : Obligations.NoRuleReadsNoValue := by
  intro s hi
  refine ⟨(step_safe hi).1, fun hn => ?_⟩
  obtain ⟨t, ht, _⟩ := selectBlock_goesOn hi
  exact ⟨t, by rw [step_eq_outcome, fetch_nil hn, ht]⟩

/-! ### The derived flags (R21) -/

theorem State.busy_iff (s : State) : s.busy = true ↔ s.st ≠ .idle ∧ s.st ≠ .done := by
  simp [State.busy]

theorem State.isDone_iff (s : State) : s.isDone = true ↔ s.st = .done := by
  simp [State.isDone]

theorem State.payValid_iff (s : State) : s.payValid = true ↔ s.st = .done ∧ s.status = .ok := by
  simp [State.payValid]

theorem State.fldValid_iff (s : State) : s.fldValid = true ↔ s.payValid = true ∧ s.outLen = some 27 := by
  simp [State.fldValid, Config.payloadLen]

theorem State.uStatus_of_not_payValid {s : State} (h : s.payValid = false) : s.uStatus = .none := by
  simp [State.uStatus, h]

theorem State.uStatus_of_fldValid {s : State} (h : s.fldValid = true) : s.uStatus = .ok := by
  simp [State.uStatus, h, (s.fldValid_iff.mp h).1]

theorem State.uStatus_of_not_fldValid {s : State} (hp : s.payValid = true) (hf : s.fldValid = false) :
    s.uStatus = .failed .malformedPayload := by
  simp [State.uStatus, hp, hf]

/-- Settles O49, flag by flag. -/
theorem derivedFlagsFollowTheirDefinitions : Obligations.DerivedFlagsFollowTheirDefinitions := fun s =>
  ⟨s.busy_iff, s.isDone_iff, s.payValid_iff, s.fldValid_iff, State.uStatus_of_not_payValid, State.uStatus_of_fldValid,
    State.uStatus_of_not_fldValid, fun h => if_neg h, fun h => if_pos h⟩

/-- Settles O1, register by register and flag by flag, by evaluation of the reset state. -/
theorem resetStateHasTheResetValues : Obligations.ResetStateHasTheResetValues :=
  ⟨rfl, rfl, rfl, rfl, rfl, rfl, rfl, rfl, fun _ => rfl, fun k => Vector.getElem_replicate k.isLt,
    fun j => Vector.getElem_replicate j.isLt, rfl, rfl, rfl, rfl, rfl, rfl, rfl⟩

/-! ### Reads of no value (R12) -/

/-- A register whose Option is `none`. -/
theorem readReg_of_none {α : Type} (r : Reg) {o : Option α} (h : o = none) : readReg r o = .error (.noValue r) := by
  rw [h, readReg_none]

theorem readReg_of_some {α : Type} (r : Reg) {o : Option α} {x : α} (h : o = some x) : readReg r o = .ok x :=
  readReg_eq_ok.mpr h

theorem Memory.readByte_none {m : Memory} {i : Nat} (hi : i < Config.bufDepth) (h : Memory.lookup m i = none) :
    Memory.readByte m i = .error (.noValue (.buf i)) := by
  simp [Memory.readByte, hi, h]

theorem Memory.readByte_some {m : Memory} {i : Nat} (hi : i < Config.bufDepth) (h : Memory.lookup m i ≠ none) :
    ∃ x, Memory.readByte m i = .ok x := by
  obtain ⟨x, hx⟩ := Option.ne_none_iff_exists'.mp h
  exact ⟨x, Memory.readByte_eq hi hx⟩

/-- The bytes of a field lie inside the buffer (R42). -/
theorem fieldByte_lt (k : Fin 9) {i : Nat} (hi : i < 3) : 3 * k.val + i < Config.bufDepth := by
  have h253 : Config.bufDepth = 253 := rfl
  omega

theorem rawField_of_bytes {m : Memory} {k : Fin 9} (h : ∀ j < 3, Memory.lookup m (3 * k.val + j) ≠ none) :
    ∃ raw, rawField m k = .ok raw := by
  obtain ⟨b0, h0⟩ := Memory.readByte_some (fieldByte_lt k (i := 0) (by omega)) (h 0 (by omega))
  obtain ⟨b1, h1⟩ := Memory.readByte_some (fieldByte_lt k (i := 1) (by omega)) (h 1 (by omega))
  obtain ⟨b2, h2⟩ := Memory.readByte_some (fieldByte_lt k (i := 2) (by omega)) (h 2 (by omega))
  exact ⟨_, rawField_eq h0 h1 h2⟩

/-- The first of a field's bytes that holds no value is the one that is named. -/
theorem rawField_missing {m : Memory} {k : Fin 9} {i : Nat} (hi : i < 3)
    (hb : ∀ j < i, Memory.lookup m (3 * k.val + j) ≠ none) (hn : Memory.lookup m (3 * k.val + i) = none) :
    rawField m k = .error (.noValue (.buf (3 * k.val + i))) := by
  have hbad := Memory.readByte_none (fieldByte_lt k hi) hn
  have hgood : ∀ j < i, ∃ x, Memory.readByte m (3 * k.val + j) = .ok x := fun j hj =>
    Memory.readByte_some (fieldByte_lt k (hj.trans hi)) (hb j hj)
  obtain rfl | rfl | rfl : i = 0 ∨ i = 1 ∨ i = 2 := by omega
  · rw [Nat.add_zero] at hbad
    simp [rawField, hbad]
  · obtain ⟨b0, h0⟩ := hgood 0 (by omega)
    rw [Nat.add_zero] at h0
    simp [rawField, h0, hbad]
  · obtain ⟨b0, h0⟩ := hgood 0 (by omega)
    obtain ⟨b1, h1⟩ := hgood 1 (by omega)
    rw [Nat.add_zero] at h0
    simp [rawField, h0, h1, hbad]

theorem extractInto_error {k : Fin 9} {s : State} {f : Fault} (h : rawField s.buf k = .error f) :
    extractInto k s = .error f := by
  simp [extractInto, h]

/-- A loop whose operation goes on and keeps `P` before index `k`, and stops at `k`, stops there. -/
theorem forEach_error {ι : Type} {f : ι → State → Except Fault State} {P : State → Prop} {k : ι} {e : Fault}
    (bad : ∀ u, P u → f k u = .error e) (rest : List ι) {before : List ι}
    (good : ∀ j ∈ before, ∀ u, P u → ∃ v, f j u = .ok v ∧ P v) {s : State} (hs : P s) :
    forEach f (before ++ k :: rest) s = .error e := by
  induction before generalizing s with
  | nil => simp [forEach, bad s hs]
  | cons j js ih =>
    obtain ⟨v, hv, hp⟩ := good j List.mem_cons_self s hs
    simp only [List.cons_append, forEach, hv]
    exact ih (fun i hi => good i (List.mem_cons_of_mem _ hi)) hp

/-- The nine field indices, cut at one of them. -/
theorem fields_split (k : Fin 9) : ∃ before rest, ([0, 1, 2, 3, 4, 5, 6, 7, 8] : List (Fin 9)) = before ++ k :: rest ∧
    ∀ j ∈ before, j < k :=
  ⟨(List.finRange 9).take k, (List.finRange 9).drop (k + 1), by revert k; decide, by revert k; decide⟩

/-- `UNPACK` of a 27-byte payload stops at the first byte that holds no value. -/
theorem unpackInto_missing {s : State} {i : Nat} (ho : s.outLen = some 27) (hi : i < 27)
    (hb : ∀ j < i, Memory.lookup s.buf j ≠ none) (hn : Memory.lookup s.buf i = none) :
    unpackInto s = .error (.noValue (.buf i)) := by
  obtain ⟨k, r, hr, rfl⟩ : ∃ (k : Fin 9) (r : Nat), r < 3 ∧ i = 3 * k.val + r :=
    ⟨⟨i / 3, by omega⟩, i % 3, Nat.mod_lt _ (by omega), (Nat.div_add_mod i 3).symm⟩
  have bad : ∀ u : State, u.buf = s.buf → extractInto k u = .error (.noValue (.buf (3 * k.val + r))) := fun u hu =>
    extractInto_error (by rw [hu]; exact rawField_missing hr (fun j hj => hb _ (by omega)) hn)
  obtain ⟨before, rest, hsplit, hlt⟩ := fields_split k
  have good : ∀ j ∈ before, ∀ u : State, u.buf = s.buf → ∃ v, extractInto j u = .ok v ∧ v.buf = s.buf := by
    intro j hj u hu
    have hjk : j.val < k.val := hlt j hj
    obtain ⟨raw, hraw⟩ := rawField_of_bytes (m := s.buf) (k := j) fun i hi => hb _ (by omega)
    exact ⟨_, extractInto_eq_ok.mpr ⟨raw, by rw [hu]; exact hraw, rfl⟩, hu⟩
  have hloop := forEach_error (P := fun u => u.buf = s.buf) bad rest good (s := s) rfl
  unfold unpackInto
  rw [readReg_of_some _ ho, hsplit, hloop]
  rfl

theorem execAwaitLength_noSum {s : State} (hs : s.st = .awaitLength) (h : s.sum = none) (b : Byte) :
    execAwaitLength (.ok [b]) s = .fault (.noValue .sum) := by
  unfold execAwaitLength
  rw [inStage_same hs, readReg_of_none _ h]
  rfl

theorem execAwaitPayload_noCnt {s : State} (hs : s.st = .awaitPayload) (h : s.cnt = none) (bs : List Byte) :
    execAwaitPayload (.ok bs) s = .fault (.noValue .cnt) := by
  unfold execAwaitPayload
  rw [inStage_same hs, readReg_of_none _ h]
  rfl

theorem execAwaitPayload_noSum {s : State} {c : Byte} {bs : List Byte} (hs : s.st = .awaitPayload) (hc : s.cnt = some c)
    (hl : bs.length = c.toNat) (h : s.sum = none) : execAwaitPayload (.ok bs) s = .fault (.noValue .sum) := by
  unfold execAwaitPayload
  simp only [inStage_same hs, readReg_of_some _ hc, orFault_ok, if_pos hl, readReg_of_none _ h, orFault_error]

theorem execValidate_noSum {s : State} (hs : s.st = .validate) (h : s.sum = none) :
    execValidate s = .fault (.noValue .sum) := by
  unfold execValidate
  rw [inStage_same hs, readReg_of_none _ h, orFault_error]

theorem execHeaderCheck_noHdr {s : State} (hs : s.st = .headerCheck) (h : s.hdr = none) :
    execHeaderCheck s = .fault (.noValue .hdr) := by
  unfold execHeaderCheck
  rw [inStage_same hs, readReg_of_none _ h, orFault_error]

theorem execHeaderCheck_noExpHdr {s : State} (hs : s.st = .headerCheck) (hh : s.hdr ≠ none) (h : s.expHdr = none) :
    execHeaderCheck s = .fault (.noValue .expHdr) := by
  obtain ⟨x, hx⟩ := Option.ne_none_iff_exists'.mp hh
  unfold execHeaderCheck
  rw [inStage_same hs, readReg_of_some _ hx, orFault_ok, readReg_of_none _ h, orFault_error]

theorem execSuccess_noLen {s : State} (hs : s.st = .success) (h : s.len = none) :
    execSuccess s = .fault (.noValue .len) := by
  unfold execSuccess
  rw [inStage_same hs, readReg_of_none _ h, orFault_error]

/-- Stage 6 stops where its `UNPACK` does. -/
theorem execSuccess_error {s : State} {l : Byte} {f : Fault} (hs : s.st = .success) (hl : s.len = some l)
    (hu : unpackInto { s with outLen := some (l - 3), status := .ok } = .error f) : execSuccess s = .fault f := by
  unfold execSuccess
  rw [inStage_same hs, readReg_of_some _ hl, orFault_ok, hu, orFault_error]

theorem execUnpack_noOutLen {s : State} (h : s.outLen = none) : execUnpack s = .fault (.noValue .outLen) := by
  unfold execUnpack unpackInto
  rw [readReg_of_none _ h]
  rfl

theorem scaleInto_noField {s : State} {j : Fin 7} (h : s.fld[j.val + 2]'(by omega) = none) :
    scaleInto j s = .error (.noValue (.fld (j.val + 2))) := by
  simp [scaleInto, scaleSource, h]

/-- Settles O14, operation by operation. -/
theorem readOfNoValueIsAFault : Obligations.ReadOfNoValueIsAFault := by
  intro s
  refine ⟨execAwaitLength_noSum, execAwaitPayload_noCnt, fun c bs => execAwaitPayload_noSum, execValidate_noSum,
    execHeaderCheck_noHdr, execHeaderCheck_noExpHdr, execSuccess_noLen, execUnpack_noOutLen, ?_, ?_, ?_⟩
  · intro i hi hb hn
    refine ⟨fun ho => ?_, fun hs hl => execSuccess_error hs hl (unpackInto_missing rfl hi hb hn)⟩
    exact congrArg (orFault · .next) (unpackInto_missing ho hi hb hn)
  · intro k i hi hb hn
    rw [exec_extract, extractInto_error (rawField_missing hi hb hn), orFault_error]
  · intro j hn
    rw [exec_scale, scaleInto_noField hn, orFault_error]

end Sys2Proof.Machine
end

section
/-! PROOFS. The statement about the body buffer (spec/20_memory.md): every operation keeps it canonical and in bounds. -/

namespace Sys2Proof.Machine

theorem ReaderStands.buf_wf {s t : State} (h : ReaderStands s t) (hm : s.buf.wf = true) : t.buf.wf = true :=
  h.buf ▸ hm

/-- Of the stage operations only a payload that arrived moves the buffer, and its bytes lie inside it (R40, R49, R114). -/
theorem StageEffect.buf_wf {s t : State} {i : Instr} (h : StageEffect s i t) (hm : s.buf.wf = true) :
    t.buf.wf = true := by
  cases h with
  | payloadOk bs c sm hs hc hl hsm hb => exact Memory.setBytes_wf hm (by omega)
  | success l u hs hl hu hf => exact hf.reader.buf_wf hm
  | headerOk | headerFailed | lengthOk | lengthBad | lengthFailed | payloadFailed | summed | residual | sameHeader
  | otherHeader => exact hm

/-- Settles O45: an operation empties the buffer, lands a payload inside it, or leaves it as it is. -/
theorem bufferStaysCanonical : Obligations.BufferStaysCanonical := by
  intro i s t hm h
  cases exec_effect h with
  | ignored => exact hm
  | begun | reset => exact Memory.wf_nil
  | stage h => exact h.buf_wf hm
  | field h => exact h.sameButFields.reader.buf_wf hm
  | outside h => exact h.sameRegisters.reader.buf_wf hm

end Sys2Proof.Machine
end

section
/-! PROOFS. The statements about the encodings (spec/30_encoding.md): the command word and the frames, what the encoder and
the decoder make of each other, the checksum, and which operation a step takes from the bits and acts before it. -/

namespace Sys2Proof

/-! ### Encoder and decoder (R61, R69, R74) -/

/-- A well-formed operation frame has a length byte that counts it, and another head than a report's (log 17). -/
theorem Instr.wf_frame_iff {h l c : Byte} {data : List Byte} : (Instr.frame h l data c).wf = true ↔
    (Config.lenMin ≤ l.toNat ∧ data.length + 3 = l.toNat) ∧ isTelemetryHead h l = false := by
  simp [Instr.wf]

theorem Instr.wf_telemetryReport_iff {c : Byte} {data : List Byte} :
    (Instr.telemetryReport data c).wf = true ↔ data.length = 27 := by
  simp [Instr.wf]

theorem isTelemetryHead_iff {h l : Byte} :
    isTelemetryHead h l = true ↔ h = Config.telemetryHeader ∧ l = Config.telemetryLen := by
  simp [isTelemetryHead]

/-- The operation of a frame whose length byte counts it is well formed, whichever of the two it is. -/
theorem frameOf_wf {h l : Byte} {data : List Byte} (c : Byte) (hl : Config.lenMin ≤ l.toNat)
    (hd : data.length + 3 = l.toNat) : (frameOf h l data c).wf = true := by
  unfold frameOf
  split
  · rename_i ht
    obtain ⟨-, rfl⟩ := isTelemetryHead_iff.mp ht
    exact Instr.wf_telemetryReport_iff.mpr (Nat.add_right_cancel (m := 3) hd)
  · exact Instr.wf_frame_iff.mpr ⟨⟨hl, hd⟩, by simp_all⟩

/-- Whichever operation a frame is, its bits are the frame's bytes (R74). -/
theorem encode_frameOf (h l : Byte) (data : List Byte) (c : Byte) :
    encode (frameOf h l data c) = some (.wire (frameBytes h l data c)) := by
  unfold frameOf
  split
  · rename_i ht
    obtain ⟨rfl, rfl⟩ := isTelemetryHead_iff.mp ht
    rfl
  · rfl

/-- A well-formed operation with bits is `START`, or the operation of a frame whose length byte counts it. -/
theorem encode_eq_some {i : Instr} {x : Encoding} (hw : i.wf = true) (hx : encode i = some x) :
    (∃ e, i = .start e ∧ x = .command (startWord e)) ∨
    ∃ h l data c, Config.lenMin ≤ l.toNat ∧ data.length + 3 = l.toNat ∧ i = frameOf h l data c ∧
      x = .wire (frameBytes h l data c) := by
  cases i with
  | start e =>
    cases hx
    exact .inl ⟨e, rfl, rfl⟩
  | frame h l data c =>
    cases hx
    obtain ⟨⟨hl, hd⟩, ht⟩ := Instr.wf_frame_iff.mp hw
    exact .inr ⟨h, l, data, c, hl, hd, by simp [frameOf, ht], rfl⟩
  | telemetryReport data c =>
    cases hx
    have hd := Instr.wf_telemetryReport_iff.mp hw
    exact .inr ⟨Config.telemetryHeader, Config.telemetryLen, data, c, by decide, by rw [hd]; rfl, rfl, rfl⟩
  | _ => cases hx

/-- A byte string is an operation exactly when it is one frame with nothing after it. -/
theorem decode_wire_eq_ok {bs : List Byte} {i : Instr} : decode (.wire bs) = .ok i ↔ decodeFrame bs = .ok (i, []) := by
  rw [decode]
  rcases decodeFrame bs with e | ⟨j, _ | ⟨b, rest⟩⟩ <;> simp

/-- Settles O34: `START` by its word, a frame by its bytes, whatever follows them. -/
theorem decodeOfEncodeIsTheOperation : Obligations.DecodeOfEncodeIsTheOperation := by
  intro i x hw hx
  rcases encode_eq_some hw hx with ⟨e, rfl, rfl⟩ | ⟨h, l, data, c, hl, hd, rfl, rfl⟩
  · exact ⟨decodeCommand_startWord e, fun _ _ hb => by cases hb⟩
  · refine ⟨decode_wire_eq_ok.mpr ?_, fun bs rest hb => ?_⟩
    · rw [← List.append_nil (frameBytes h l data c)]
      exact decodeFrame_frameBytes c [] hl hd
    · cases hb
      exact decodeFrame_frameBytes c rest hl hd

/-- A command word is its two bytes, the opcode above the argument (R69). -/
theorem startWord_extract {w : Half} (h : w.extractLsb' 8 8 = Config.startOp) : startWord (w.extractLsb' 0 8) = w := by
  rw [startWord, ← h]
  exact (BitVec.extractLsb'_append_extractLsb'_eq_extractLsb' rfl).trans BitVec.extractLsb'_eq_self

/-- Settles O35: a decoded word is that of `START`, decoded bytes are those of a frame whose length byte counts them. -/
theorem encodeOfDecodeIsTheWord : Obligations.EncodeOfDecodeIsTheWord := by
  intro x i h
  cases x with
  | command w =>
    obtain ⟨hop, rfl⟩ := decodeCommand_eq_ok.mp h
    exact ⟨rfl, by rw [encode, startWord_extract hop]⟩
  | wire bs =>
    obtain ⟨hd, l, data, c, rfl, hl, hlen, rfl⟩ := decodeFrame_eq_ok (decode_wire_eq_ok.mp h)
    exact ⟨frameOf_wf c hl hlen, by rw [encode_frameOf, List.append_nil]⟩

/-- Settles O33: the decoders are evaluated on each written word. -/
theorem writtenWordsDecode : Obligations.WrittenWordsDecode :=
  ⟨rfl, rfl, rfl, rfl, rfl, rfl, rfl, rfl⟩

/-- A command word of another opcode is rejected by that opcode (R69). -/
theorem decodeCommand_other {w : Half} (h : w.extractLsb' 8 8 ≠ Config.startOp) :
    decodeCommand w = .error (.notACommand (w.extractLsb' 8 8)) :=
  if_neg h

@[simp] theorem length_frameBytes (h l : Byte) (data : List Byte) (c : Byte) :
    (frameBytes h l data c).length = data.length + 3 := by
  simp [frameBytes]

/-- The second byte of a decoded frame says where it ends: those bytes alone are the frame (R65). -/
theorem decodeFrame_take {h l : Byte} {tl rest : List Byte} {i : Instr} (hd : decodeFrame (h :: l :: tl) = .ok (i, rest)) :
    decodeFrame ((h :: l :: tl).take l.toNat) = .ok (i, []) := by
  obtain ⟨h', l', data, c, hbs, hl, hlen, rfl⟩ := decodeFrame_eq_ok hd
  obtain ⟨rfl, rfl, rfl⟩ : h = h' ∧ l = l' ∧ tl = data ++ [c] ++ rest := by simpa [frameBytes] using hbs
  rw [hbs, List.take_left' (by rw [length_frameBytes, hlen]), ← List.append_nil (frameBytes _ _ _ _)]
  exact decodeFrame_frameBytes c [] hl hlen

namespace Machine

/-! ### The checksum and the frame constructor (R64, R72) -/

theorem sum8_frameBytes (h l : Byte) (data : List Byte) (c : Byte) :
    sum8 (frameBytes h l data c) = sum8 ([h, l] ++ data) + c := by
  rw [show frameBytes h l data c = ([h, l] ++ data) ++ [c] from rfl, sum8_append _ [c]]
  simp

/-- Settles O53: `neg8` is the negative modulo 256, so both forms say that the last byte cancels the sum before it. -/
theorem checksumFormsAreTheSame : Obligations.ChecksumFormsAreTheSame := by
  intro h l c data
  rw [sum8_frameBytes, neg8_eq, eq_neg_iff_add_eq_zero, add_comm]

/-- Where the length byte can count the frame, it does. -/
theorem toNat_frameLength {n : Nat} (h : n ≤ 252) : n + 3 = (BitVec.ofNat 8 (n + 3)).toNat := by
  rw [BitVec.toNat_ofNat, Nat.mod_eq_of_lt (by omega)]

theorem payloadOf_frameBytes (h l : Byte) (data : List Byte) (c : Byte) : payloadOf (frameBytes h l data c) = data := by
  simp [payloadOf, frameBytes]

/-- Settles O54: the length byte counts the frame, and the checksum byte is the one O53 asks for. -/
theorem madeFramesAreOk : Obligations.MadeFramesAreOk := by
  intro h d hd
  have hsize : wellSized (mkFrame h d) = true := wellSized_frameBytes _ (toNat_frameLength hd)
  have hsum : checksumOk (mkFrame h d) = true := beq_iff_eq.mpr ((checksumFormsAreTheSame h _ _ d).mpr rfl)
  refine ⟨hsize, hsum, ?_, payloadOf_frameBytes _ _ _ _⟩
  rw [frameOk, hsize, hsum]
  simp [mkFrame, frameBytes]

/-! ### Frames as acts of the device (R61, R97) -/

/-- A delivered frame joins the wire, less the bytes that an abandoned read takes (R231). -/
theorem deliver_frameBytes (h l c : Byte) (data : List Byte) (s : State) :
    s.deliver (frameBytes h l data c) = { s with
      wire := s.wire ++ ([h, l] ++ data ++ [c]).drop s.debt, debt := s.debt - (data.length + 3) } := by
  rw [State.deliver, length_frameBytes]
  rfl

/-- Settles O32: both operations deliver the bytes of their frame. -/
theorem framesArriveOnTheWire : Obligations.FramesArriveOnTheWire := fun h l c data s =>
  ⟨congrArg Host.Outcome.next (deliver_frameBytes h l c data s),
    congrArg Host.Outcome.next (deliver_frameBytes Config.telemetryHeader Config.telemetryLen c data s)⟩

/-! ### A step on the next act (R25, R74) -/

section
variable {s : State} {rest : List Event}

/-- Where the block's turn is not an unshared one, a step does what the next act selects. -/
theorem step_event {ev : Event} (hi : s.unshared = false) (h : s.schedule = ev :: rest) :
    step s = (selectEvent ev { s with schedule := rest }).outcome := by
  rw [step_eq_outcome, fetch_cons h hi]

theorem step_wire_more {bs more : List Byte} {b : Byte} {i : Instr} (hi : s.unshared = false)
    (h : s.schedule = .wire bs :: rest) (hd : decodeFrame bs = .ok (i, b :: more)) :
    step s = exec i { s with schedule := .wire (b :: more) :: rest } := by
  rw [step_event hi h]
  simp only [selectEvent, selectWire, hd, Fetched.outcome]

theorem step_wire_error {bs : List Byte} {e : DecodeError} (hi : s.unshared = false)
    (h : s.schedule = .wire bs :: rest) (hd : decodeFrame bs = .error e) :
    step s = .next (({ s with schedule := rest } : State).deliver bs) := by
  rw [step_event hi h]
  simp only [selectEvent, selectWire, hd, Fetched.outcome]

/-- The oracle's answer to the outstanding request, of the size asked for, is accepted (R91, R92). -/
theorem step_answer {n : Nat} {a : Answer} (hi : s.unshared = false) (hc : s.cfg.transport = .oracle)
    (hq : s.req = some n) (hr : s.rsp = none) (h : s.schedule = .answer a :: rest) (ha : a.fits n = true) :
    step s = .next { ({ s with schedule := rest } : State).consume n a with rsp := some a } := by
  rw [step_event hi h]
  simp only [selectEvent, selectAnswer, hc, hq, hr, ha, if_true, Fetched.outcome]

theorem step_shortRead {n : Nat} (hi : s.unshared = false) (hc : s.cfg.transport = .oracle)
    (hq : s.req = some n) (hr : s.rsp = none) (h : s.schedule = .answer .shortRead :: rest) :
    ∃ k tick, k ≤ s.wire.length ∧ k ≤ n - 1 ∧ step s = .next { s with
      schedule := rest, rsp := some .shortRead, wire := s.wire.drop k, tick := tick } := by
  obtain ⟨k, tick, hk, hn, -, he⟩ := State.consume_shortRead { s with schedule := rest } n
  exact ⟨k, tick, hk, hn hc, by rw [step_answer hi hc hq hr h rfl, he]⟩

theorem step_lateAnswer {n : Nat} {a : Answer} (hi : s.unshared = false) (h : s.schedule = .lateAnswer a :: rest)
    (hn : s.abandoned = n + 1) : step s = .next { s with schedule := rest, abandoned := n } := by
  rw [step_event hi h]
  simp only [selectEvent, selectLate, hn, Fetched.outcome]

/-- The caller's own read is taken with the block at rest (R92, R240). -/
theorem step_tRead {n : Nat} (hb : s.busy = false) (h : s.schedule = .tRead n :: rest) :
    step s = exec (.tRead n) { s with schedule := rest } := by
  rw [step_event (State.unshared_of_rest hb) h]
  exact congrArg Fetched.outcome (if_neg (Bool.eq_false_iff.mp hb))

/-- `RESET` is taken in every stage (R230). -/
theorem step_rst (h : s.schedule = .rst :: rest) : step s = exec .reset { s with schedule := rest } :=
  step_run (fetch_cutsIn h rfl)

/-- A command word of another opcode is refused by that opcode (R69, log 11). -/
theorem step_notACommand {w : Half} (hw : w.extractLsb' 8 8 ≠ Config.startOp) (hi : s.unshared = false)
    (h : s.schedule = .cmd w :: rest) : step s = .refused (.notACommand (w.extractLsb' 8 8)) := by
  rw [step_event hi h]
  simp only [selectEvent, decodeCommand_other hw, Fetched.outcome]

end

/-- Settles O36: such a word decodes to no command, and the step that takes it is refused. -/
theorem otherOpcodesAreNoCommands : Obligations.OtherOpcodesAreNoCommands :=
  fun _ _ _ hw hi h => ⟨decodeCommand_other hw, step_notACommand hw hi h⟩

theorem tableBytes_eq_cons (nbits w : Nat) : ∃ h l tl, tableBytes nbits w = h :: l :: tl := ⟨_, _, _, rfl⟩

/-- The table word of at most 16 bits, read as a command word, is no command; a longer one is never read so (log 16). -/
def NoTableCommand (nbits w : Nat) : Prop :=
  ∃ e, (if nbits ≤ 16 then decodeCommand (BitVec.ofNat 16 (w % 2 ^ nbits)) else .error (.notACommand 0)) = .error e

/-- What a table word that decodes is: a command, or else the frame that its bytes begin (log 16). -/
theorem decodeTableWord_eq_some {nbits w : Nat} {i : Instr} (h : decodeTableWord nbits w = some i) :
    (nbits ≤ 16 ∧ decodeCommand (BitVec.ofNat 16 (w % 2 ^ nbits)) = .ok i) ∨
    (NoTableCommand nbits w ∧ ∃ rest, decodeFrame (tableBytes nbits w) = .ok (i, rest)) := by
  unfold decodeTableWord at h
  split at h
  · rename_i j hc
    obtain rfl := Option.some.inj h
    split at hc
    · exact .inl ⟨‹_›, hc⟩
    · cases hc
  · rename_i e hc
    split at h
    · rename_i j rest hf
      obtain rfl := Option.some.inj h
      exact .inr ⟨⟨e, hc⟩, rest, hf⟩
    · cases h

theorem tableEvent_command {nbits w : Nat} {i : Instr} (hn : nbits ≤ 16)
    (hd : decodeCommand (BitVec.ofNat 16 (w % 2 ^ nbits)) = .ok i) :
    tableEvent nbits w = .cmd (BitVec.ofNat 16 (w % 2 ^ nbits)) := by
  simp only [tableEvent, if_pos hn, hd]

theorem tableEvent_frame {nbits w : Nat} {h l : Byte} {tl : List Byte} (hn : NoTableCommand nbits w)
    (hb : tableBytes nbits w = h :: l :: tl) : tableEvent nbits w = .wire ((h :: l :: tl).take l.toNat) := by
  obtain ⟨e, he⟩ := hn
  simp only [tableEvent, he, hb]

/-- What the act of a table word that decodes carries: the command's word, or the bytes of the one frame (log 16). -/
theorem tableEvent_of_decode {nbits w : Nat} {i : Instr} (h : decodeTableWord nbits w = some i) :
    (∃ c, tableEvent nbits w = .cmd c ∧ decodeCommand c = .ok i) ∨
    ∃ bs, tableEvent nbits w = .wire bs ∧ decodeFrame bs = .ok (i, []) := by
  rcases decodeTableWord_eq_some h with ⟨hn, hd⟩ | ⟨hn, rest, hf⟩
  · exact .inl ⟨_, tableEvent_command hn hd, hd⟩
  · obtain ⟨hd, l, tl, hb⟩ := tableBytes_eq_cons nbits w
    exact .inr ⟨_, tableEvent_frame hn hb, decodeFrame_take (hb ▸ hf)⟩

theorem step_withFetchWord {s : State} {nbits w : Nat} {i : Instr} (hi : s.unshared = false)
    (h : decodeTableWord nbits w = some i) : step (s.withFetchWord nbits w) = exec i s := by
  have hsch : (s.withFetchWord nbits w).schedule = tableEvent nbits w :: s.schedule := rfl
  rcases tableEvent_of_decode h with ⟨c, he, hd⟩ | ⟨bs, he, hd⟩
  · exact step_cmd (he ▸ hsch) hi hd
  · exact step_wire (he ▸ hsch) hi hd

/-- Settles O37, act by act. -/
theorem stepRunsTheDecodedOperation : Obligations.StepRunsTheDecodedOperation := by
  refine ⟨fun s rest hi => ⟨fun w i h => step_cmd h hi, fun bs i h => step_wire h hi,
    fun bs i b more h => step_wire_more hi h, fun bs err h => step_wire_error hi h, fun n hc hq hr =>
      ⟨fun bs h hl => step_answer hi hc hq hr h (beq_iff_eq.mpr hl), step_shortRead hi hc hq hr,
        fun h => step_answer hi hc hq hr h rfl⟩,
    fun a n h => step_lateAnswer hi h, fun path opens h => step_event hi h, fun n hb h => step_tRead hb h,
    fun bs taken h => step_event hi h, step_event hi, step_event hi⟩, fun s rest => step_rst,
    fun s w i => step_withFetchWord⟩

/-! ### A step on the block's turn (R74 "selected by", R118) -/

/-- The three ways in which the block's turn comes all select the operation of its stage (log 3, log 26). -/
theorem step_blockTurn {s t : State} (h : (s.schedule = [] ∧ t = s) ∨
    (s.schedule = .block :: t.schedule ∧ t = { s with schedule := t.schedule }) ∨
    (s.unshared = true ∧ t = s ∧ ∀ rest, s.schedule ≠ .block :: rest ∧ s.schedule ≠ .rst :: rest)) :
    step s = (selectBlock t).outcome ∧ t = { s with schedule := t.schedule } := by
  rw [step_eq_outcome]
  rcases h with ⟨hn, rfl⟩ | ⟨hb, ht⟩ | ⟨hu, rfl, hne⟩
  · exact ⟨by rw [fetch_nil hn], rfl⟩
  · exact ⟨by rw [fetch_cutsIn hb rfl, ← ht]; rfl, ht⟩
  · refine ⟨?_, rfl⟩
    rw [fetch_unshared hu]
    intro ev rest hs
    cases ev with
    | block => exact absurd hs (hne rest).1
    | rst => exact absurd hs (hne rest).2
    | _ => rfl

/-- In a waiting stage the block's turn is that stage's. -/
theorem selectBlock_waiting {s : State} (h : s.waiting = true) : ∃ op, selectBlock s = selectWaiting op s := by
  simp only [State.waiting, Bool.or_eq_true, beq_iff_eq] at h
  unfold selectBlock
  rcases h with (h | h) | h <;> exact ⟨_, by rw [h]⟩

theorem selectWaiting_answer {s : State} {a : Answer} (op : Answer → Instr) (h : s.rsp = some a) :
    selectWaiting op s = .run (op a) s := by
  simp only [selectWaiting, h]

theorem selectWaiting_reference {s : State} {n : Nat} (op : Answer → Instr) (hr : s.rsp = none) (hq : s.req = some n)
    (hc : s.cfg.transport = .reference) : selectWaiting op s = .run (.tRead n) s := by
  simp only [selectWaiting, hr, hc, hq]

/-- Settles O38: the step is the block's own, and its stage says which operation that is. -/
theorem stepRunsTheSelectedStage : Obligations.StepRunsTheSelectedStage := by
  intro s t h
  obtain ⟨hstep, ht⟩ := step_blockTurn h
  have hst : t.st = s.st := by rw [ht]
  have hrsp : t.rsp = s.rsp := by rw [ht]
  have hreq : t.req = s.req := by rw [ht]
  have hcfg : t.cfg = s.cfg := by rw [ht]
  have hw : t.waiting = s.waiting := by rw [ht]; rfl
  rw [hstep, ← hst, ← hrsp, ← hreq, ← hcfg, ← hw]
  refine ⟨fun h => ?_, fun h => ?_, fun h => ?_, fun a ha => ⟨fun h => ?_, fun h => ?_, fun h => ?_⟩,
    fun n hw hr hq hc => ?_, ?_⟩
  · simp only [selectBlock, h, Fetched.outcome]
  · simp only [selectBlock, h, Fetched.outcome]
  · simp only [selectBlock, h, Fetched.outcome]
  · simp only [selectBlock, h, selectWaiting_answer _ ha, Fetched.outcome]
  · simp only [selectBlock, h, selectWaiting_answer _ ha, Fetched.outcome]
  · simp only [selectBlock, h, selectWaiting_answer _ ha, Fetched.outcome]
  · obtain ⟨op, hop⟩ := selectBlock_waiting hw
    simp only [hop, selectWaiting_reference op hr hq hc, Fetched.outcome]
  · rintro (h | h) <;> simp only [selectBlock, h, Fetched.outcome]

/-! ### The status codes (R20, R68) -/

theorem Status.ofCode_code (x : Status) : Status.ofCode x.code = some x := by
  cases x with
  | none => rfl
  | ok => rfl
  | failed k => cases k <;> rfl

theorem Status.code_of_ofCode {c : BitVec 3} {x : Status} (h : Status.ofCode c = some x) : x.code = c := by
  unfold Status.ofCode at h
  split_ifs at h <;> cases h <;> symm <;> assumption

/-- Settles O50: the two tables are inverse, and code 7 is in neither. -/
theorem statusCodesAreDistinct : Obligations.StatusCodesAreDistinct :=
  ⟨Status.ofCode_code, fun _ _ => Status.code_of_ofCode, rfl, rfl, rfl, rfl, rfl, rfl, rfl, rfl⟩

end Machine

end Sys2Proof
end

section
/-! PROOFS. The statements about the Transport (spec/40_transport.md): its five calls, what each read answers and leaves, an
answer of the wrong size, and the wait for an answer that does not come. -/

namespace Sys2Proof.Machine

/-! ### What a read answers and leaves, by the handle and the wire (R92, R100) -/

section
variable {n : Nat} {s : State}

theorem endRead_null (h : s.handle = none) : endRead n s = (.unavailable, s) := by
  rcases endRead_cases n s with ⟨_, he⟩ | ⟨ho, _⟩ | ⟨ho, _⟩
  · exact he
  · exact absurd h ho
  · exact absurd h ho

theorem endRead_enough (h : s.handle ≠ none) (hn : n ≤ s.wire.length) :
    endRead n s = (.ok (s.wire.take n), { s with wire := s.wire.drop n }) := by
  rcases endRead_cases n s with ⟨h0, _⟩ | ⟨_, _, he⟩ | ⟨_, hlt, _⟩
  · exact absurd h0 h
  · exact he
  · omega

theorem endRead_short (h : s.handle ≠ none) (hn : s.wire.length < n) : ∃ k ≤ s.wire.length, ∃ tick,
    (s.cfg.transport = .reference → k = s.wire.length ∧ tick = s.tick) ∧
    endRead n s = (.shortRead, { s with wire := s.wire.drop k, tick := tick }) := by
  rcases endRead_cases n s with ⟨h0, _⟩ | ⟨_, hle, _⟩ | ⟨_, _, he⟩
  · exact absurd h0 h
  · omega
  · exact he

theorem transportRead_null (h : s.handle = none) : transportRead n s = (.unavailable, s) := by
  rw [transportRead, State.setCount_null n h, endRead_null h]

/-- A whole read of an open handle sets the count and then is the end of that read. -/
theorem transportRead_open (h : s.handle ≠ none) : transportRead n s = endRead n { s with vmin := .count n } := by
  rw [transportRead, State.setCount_open n h]

theorem transportRead_enough (h : s.handle ≠ none) (hn : n ≤ s.wire.length) :
    transportRead n s = (.ok (s.wire.take n), { s with vmin := .count n, wire := s.wire.drop n }) := by
  rw [transportRead_open h]
  exact endRead_enough h hn

theorem transportRead_short (h : s.handle ≠ none) (hn : s.wire.length < n) : ∃ k ≤ s.wire.length, ∃ tick,
    (s.cfg.transport = .reference → k = s.wire.length ∧ tick = s.tick) ∧
    transportRead n s = (.shortRead, { s with vmin := .count n, wire := s.wire.drop k, tick := tick }) := by
  rw [transportRead_open h]
  exact endRead_short (s := { s with vmin := .count n }) h hn

end

/-- Settles O27: the three cases of a read, where a short one takes the whole wire and uses no free value. -/
theorem referenceTransportReads : Obligations.ReferenceTransportReads := by
  intro n s hc
  split
  · exact transportRead_null ‹_›
  · split
    · exact transportRead_enough ‹_› ‹_›
    · obtain ⟨k, -, tick, hr, he⟩ := transportRead_short (n := n) ‹s.handle ≠ none› (Nat.lt_of_not_le ‹_›)
      obtain ⟨rfl, rfl⟩ := hr hc
      rw [he, List.drop_length]

/-! ### `T_READ` for its two readers (R92, R240) -/

section
variable {n : Nat} {s : State}

/-- The end of the block's outstanding read puts the answer on `rd_rsp`. -/
theorem exec_tRead_block (h0 : n ≠ 0) (hb : s.busy = true) (hq : s.req = some n) (hr : s.rsp = none) :
    exec (.tRead n) s = .next { (endRead n s).2 with rsp := some (endRead n s).1 } := by
  rw [exec, execTRead, if_neg h0, if_pos hb, if_pos ⟨hq, hr⟩]

/-- With the block at rest the whole read is the caller's, and so is the answer. -/
theorem exec_tRead_caller (h0 : n ≠ 0) (hb : s.busy = false) :
    exec (.tRead n) s = .next { (transportRead n s).2 with tret := .read (transportRead n s).1 } := by
  rw [exec, execTRead, if_neg h0, if_neg (Bool.eq_false_iff.mp hb)]

end

/-- Settles O26: for either reader the operation is the read, whose answer the handle and the wire decide. -/
theorem tReadAnswersItsReader : Obligations.TReadAnswersItsReader := by
  intro n s h1
  have h0 : n ≠ 0 := Nat.one_le_iff_ne_zero.mp h1
  refine ⟨fun hb hq hr => ?_, fun hb => ?_⟩
  · rw [exec_tRead_block h0 hb hq hr]
    refine ⟨fun h => ?_, fun h hn => ?_, fun h hn => ?_⟩
    · rw [endRead_null h]
    · rw [endRead_enough h hn]
    · obtain ⟨k, hk, tick, -, he⟩ := endRead_short h hn
      rw [he]
      exact ⟨_, rfl, rfl, k, hk, rfl⟩
  · rw [exec_tRead_caller h0 hb]
    refine ⟨fun h => ?_, fun h hn => ?_, fun h hn => ?_⟩
    · rw [transportRead_null h]
    · rw [transportRead_enough h hn]
    · obtain ⟨k, hk, tick, -, he⟩ := transportRead_short h hn
      rw [he]
      exact ⟨_, rfl, rfl, k, hk, rfl⟩

/-! ### `T_OPEN`, `T_WRITE`, `T_RESET`, `T_CLOSE` (R93 to R96) -/

/-- Settles O25: the two outcomes are the two branches of the call's condition. -/
theorem tOpenGivesAHandleOrFails : Obligations.TOpenGivesAHandleOrFails := by
  refine fun path opens s => ⟨fun hp ho => if_pos ⟨hp, ho⟩, fun h => if_neg fun ⟨hp, ho⟩ => ?_⟩
  rcases h with h | h
  · exact hp h
  · exact Bool.false_ne_true (h.symm.trans ho)

theorem execTWrite_null {s : State} (bs : List Byte) (taken : Nat) (h : s.handle = none) :
    execTWrite bs taken s = .next { s with tret := .shortWrite } := by
  simp only [execTWrite, h]

/-- With an open handle the device transmits what it takes, and the call tells whether that was all (R94). -/
theorem execTWrite_open {s : State} (bs : List Byte) (taken : Nat) (h : s.handle ≠ none) :
    execTWrite bs taken s = .next { s with
      sent := s.sent ++ bs.take taken, tret := if bs.length ≤ taken then .wrote bs.length else .shortWrite } := by
  obtain ⟨p, hp⟩ := Option.ne_none_iff_exists'.mp h
  simp only [execTWrite, hp]

/-- Settles O29: with all the bytes taken, the bytes transmitted are all of them. -/
theorem tWriteSucceedsOnlyWhole : Obligations.TWriteSucceedsOnlyWhole := by
  refine fun bs taken s => ⟨execTWrite_null bs taken, fun h hle => ?_, fun h hlt => ?_⟩
  · rw [exec, execTWrite_open bs taken h, if_pos hle, List.take_of_length_le hle]
  · rw [exec, execTWrite_open bs taken h, if_neg (Nat.not_le_of_lt hlt)]

/-- What a call has returned to the caller plays no part in a read. -/
theorem State.consume_withReturn (s : State) (r : TReturn) (n : Nat) (a : Answer) :
    ({ s with tret := r } : State).consume n a = { s.consume n a with tret := r } := by
  cases a with
  | ok bs => rfl
  | shortRead =>
    simp only [State.consume]
    split <;> rfl
  | unavailable => rfl

theorem endRead_withReturn (s : State) (r : TReturn) (n : Nat) :
    (endRead n { s with tret := r }).1 = (endRead n s).1 ∧
    (endRead n { s with tret := r }).2 = { (endRead n s).2 with tret := r } :=
  ⟨rfl, s.consume_withReturn r n (readAnswer n s)⟩

/-- Settles O30: the next read of an open handle sets the count again, whatever it was. -/
theorem tResetReleasesTheCount : Obligations.TResetReleasesTheCount := by
  refine fun s => ⟨rfl, fun n h => ?_⟩
  rw [transportRead_open (s := s) h, transportRead_open (s := { s with vmin := .nonBlocking, tret := .finished }) h]
  exact endRead_withReturn { s with vmin := .count n } .finished n

/-- Settles O31: after the close there is no handle to read. -/
theorem tCloseReleasesTheHandle : Obligations.TCloseReleasesTheHandle :=
  fun _ => ⟨rfl, fun _ => congrArg Prod.fst (transportRead_null rfl)⟩

/-! ### An answer of another size than asked (R92, U17) -/

section
variable {s : State} {bs : List Byte}

/-- The two stages that ask for one byte take no other number (R112, R113). -/
theorem oneByteStages_wrongLength (hl : bs.length ≠ 1) :
    (s.st = .awaitHeader → execAwaitHeader (.ok bs) s = .refused .answerLength) ∧
    (s.st = .awaitLength → execAwaitLength (.ok bs) s = .refused .answerLength) :=
  match bs, hl with
  | [], _ => ⟨inStage_same, inStage_same⟩
  | [_], hl => absurd rfl hl
  | _ :: _ :: _, _ => ⟨inStage_same, inStage_same⟩

theorem execAwaitPayload_wrongLength {c : Byte} (hs : s.st = .awaitPayload) (hc : s.cnt = some c)
    (hl : bs.length ≠ c.toNat) : execAwaitPayload (.ok bs) s = .refused .answerLength := by
  rw [execAwaitPayload, inStage_same hs]
  simp only [readReg_of_some _ hc, orFault_ok, if_neg hl]

/-- The oracle's answer of another size is refused on channel `rd_rsp` too (log 20). -/
theorem step_answer_wrongLength {n : Nat} {a : Answer} {rest : List Event} (hi : s.unshared = false)
    (hc : s.cfg.transport = .oracle) (hq : s.req = some n) (hr : s.rsp = none) (ha : a.fits n = false)
    (h : s.schedule = .answer a :: rest) : step s = .refused .answerLength := by
  rw [step_event hi h]
  simp only [selectEvent, selectAnswer, hc, hq, hr, ha, Bool.false_eq_true, if_false, Fetched.outcome]

end

/-- Settles O9, stage by stage and at the channel. -/
theorem wrongAnswerLengthIsRefused : Obligations.WrongAnswerLengthIsRefused :=
  ⟨fun _ _ => oneByteStages_wrongLength,
    fun _ _ _ => execAwaitPayload_wrongLength,
    fun _ _ _ _ hc hi hq hr ha h => step_answer_wrongLength (State.unshared_of_oracle hi hc) hc hq hr ha h⟩

/-! ### The wait for an answer (R91, R204, R244) -/

/-- Any number of steps leaves a state that one step leaves. -/
theorem run_of_step_same {M : Host.Core} {s : M.State} (h : M.step s = .next s) (n : Nat) : M.run n s = .next s := by
  induction n with
  | zero => rfl
  | succ n ih => simp only [Host.Core.run, h, ih]

theorem selectWaiting_oracle {s : State} (op : Answer → Instr) (hr : s.rsp = none) (hc : s.cfg.transport = .oracle) :
    selectWaiting op s = .stay s := by
  simp only [selectWaiting, hr, hc]

/-- Settles O39: the one step leaves the state, so any number of them does. -/
theorem waitingBlockWaitsForEver : Obligations.WaitingBlockWaitsForEver := by
  intro s n hw hc hr hn
  have hstep : step s = .next s := by
    obtain ⟨op, hop⟩ := selectBlock_waiting hw
    exact step_stay (by rw [fetch_nil hn, hop, selectWaiting_oracle op hr hc])
  exact run_of_step_same (M := core) hstep n

end Sys2Proof.Machine
end

section
/-! PROOFS. The statements about the frame reader (spec/41_frame_reader.md): `START` and the six stages, the transition
table, and the laws of byte sums. -/

namespace Sys2Proof.Machine

/-! ### `START` and the stages, one by one (R111 to R117) -/

/-- A request, with the minimum count by the handle (R25, R92). -/
theorem State.issue_eq (s : State) (n : Nat) : s.issue n =
    { s with req := some n, rsp := none, vmin := if s.handle = none then s.vmin else .count n } := by
  by_cases h : s.handle = none
  · rw [if_pos h, State.issue, State.setCount_null n h]
  · rw [if_neg h, State.issue, State.setCount_open n h]

theorem State.busy_false_iff (s : State) : s.busy = false ↔ s.st = .idle ∨ s.st = .done := by
  rw [← Bool.not_eq_true, State.busy_iff, not_and_or, not_not, not_not]

/-- Settles O4: the block is busy in every stage but the two at rest. -/
theorem startBeginsAnInvocation : Obligations.StartBeginsAnInvocation := by
  refine fun e s => ⟨fun h => ?_, fun hi hd => if_pos ((State.busy_iff s).mpr ⟨hi, hd⟩)⟩
  have hb : ¬s.busy = true := by simp [(State.busy_false_iff s).mpr h]
  rw [exec, execStart, if_neg hb, State.begin, State.issue_eq]
  rfl

/-- Settles O6, answer by answer. -/
theorem awaitHeaderTakesItsAnswer : Obligations.AwaitHeaderTakesItsAnswer :=
  fun s hs =>
    ⟨fun b => by rw [exec, execAwaitHeader, inStage_same hs, State.issue_eq], inStage_same hs, inStage_same hs⟩

/-- A length byte that describes no frame ends the invocation (R113). -/
theorem execAwaitLength_malformed {s : State} {sm b : Byte} (hs : s.st = .awaitLength) (hsm : s.sum = some sm)
    (hb : b.toNat < 3) : execAwaitLength (.ok [b]) s =
      .next (State.raise { s.answered with len := some b, sum := some (sm + b) } .malformedPayload) :=
  (execAwaitLength_eq b hs hsm).trans (if_pos hb)

/-- Any other length byte asks for the body (R113). -/
theorem execAwaitLength_asks {s : State} {sm b : Byte} (hs : s.st = .awaitLength) (hsm : s.sum = some sm)
    (hb : 3 ≤ b.toNat) : execAwaitLength (.ok [b]) s =
      .next (State.issue
        { s.answered with len := some b, sum := some (sm + b), cnt := some (b - 2), st := .awaitPayload }
        (b.toNat - 2)) :=
  (execAwaitLength_eq b hs hsm).trans (if_neg (Nat.not_lt_of_le hb))

/-- Settles O7: a length byte is stored and summed, then tested. -/
theorem awaitLengthTakesItsAnswer : Obligations.AwaitLengthTakesItsAnswer := by
  refine fun s sm hs hsm =>
    ⟨fun b hb => ?_, fun b => execAwaitLength_malformed hs hsm, fun a => execAwaitLength_failed hs⟩
  rw [exec, execAwaitLength_asks hs hsm hb, State.issue_eq]
  rfl

theorem Memory.readByte_congr {m n : Memory} {i : Nat} (h : Memory.lookup m i = Memory.lookup n i) :
    Memory.readByte m i = Memory.readByte n i := by
  rw [Memory.readByte, Memory.readByte, h]

/-- Settles O8: a byte of the buffer after the write is the body's inside it, the old one outside. -/
theorem awaitPayloadStoresTheBody : Obligations.AwaitPayloadStoresTheBody := by
  refine fun s c sm hs hc hsm h253 => ⟨fun bs hl => ?_, fun a => execAwaitPayload_failed hs⟩
  have hb : bs.length ≤ Config.bufDepth := hl ▸ h253
  refine ⟨_, execAwaitPayload_eq hs hc hsm hl hb, rfl, fun i hi => ?_, fun i hi => ?_⟩
  · refine Memory.readByte_eq (Nat.lt_of_lt_of_le hi hb) ?_
    rw [Memory.lookup_setBytes, if_pos (by omega)]
    exact List.getElem?_eq_getElem hi
  · exact Memory.readByte_congr (by rw [Memory.lookup_setBytes, if_neg (by omega)])

/-- Settles O11: the two branches of the comparison. -/
theorem headerCheckComparesTheHeader : Obligations.HeaderCheckComparesTheHeader := by
  refine fun s h e hs hh he => ⟨fun heq => ?_, fun hne => ?_⟩
  · rw [exec, execHeaderCheck_eq hs hh he, if_pos heq]
  · rw [exec, execHeaderCheck_eq hs hh he, if_neg hne]
    rfl

/-- Settles O12: the length less three is 27 for a length of 30 only, and `UNPACK` does the rest. -/
theorem successPublishesTheResult : Obligations.SuccessPublishesTheResult := by
  refine fun s l hs hl _ => ⟨fun hne => ?_, fun p v h30 hp hv => ?_⟩
  · have hout : l - 3 ≠ 27 := by bv_omega
    exact execSuccess_eq hs hl (unpackInto_short rfl hout)
  · subst h30
    exact execSuccess_eq hs hl (unpackInto_full rfl hp hv)

theorem inStage_other {st : Stage} {s : State} {r : Result} (h : s.st ≠ st) :
    inStage st s r = .refused (.notSelected s.st) :=
  if_neg h

/-- Settles O13: the stage is tested before anything else. -/
theorem stageOperationsRunOnlyInTheirStage : Obligations.StageOperationsRunOnlyInTheirStage :=
  fun _ _ => ⟨inStage_other, inStage_other, inStage_other, inStage_other, inStage_other, inStage_other⟩

/-! ### The transition table (R119) -/

/-- Each thing that a stage operation can leave is a row. -/
theorem StageEffect.transition {s t : State} {i : Instr} (h : StageEffect s i t) : Transition i s t := by
  cases h with
  | headerOk b hs => exact .headerOk hs rfl rfl rfl
  | headerFailed a k hs ha =>
    obtain ⟨rfl, rfl⟩ | ⟨rfl, rfl⟩ := ha
    · exact .headerShort hs rfl rfl rfl
    · exact .headerUnavailable hs rfl rfl rfl
  | lengthOk b sm hs hsm hb => exact .lengthOk hs hb rfl rfl rfl
  | lengthBad b sm hs hsm hb => exact .lengthBad hs hb rfl rfl rfl
  | lengthFailed a hs ha => exact .lengthFailed hs ha rfl rfl rfl
  | payloadOk bs c sm hs hc hl hsm hb => exact .payloadOk hs rfl rfl rfl
  | payloadFailed a hs ha => exact .payloadFailed hs ha rfl rfl rfl
  | summed hs hsm => exact .summed hs hsm rfl rfl rfl
  | residual sm hs hsm h0 => exact .residual hs (by simpa [hsm] using h0) rfl rfl rfl
  | sameHeader e hs hh he => exact .sameHeader hs (hh.trans he.symm) rfl rfl rfl
  | otherHeader x e hs hh he hn => exact .otherHeader hs (by simpa [hh, he] using hn) rfl rfl rfl
  | success l u hs hl hu hf => exact .success hs rfl (by rw [hf]) (by rw [hf])

/-- Settles O40: an operation outside the six stages, but for `START` and `RESET`, moves neither register. -/
theorem onlyTheTableMovesTheStage : Obligations.OnlyTheTableMovesTheStage := by
  intro i s t h
  cases exec_effect h with
  | ignored e hb => exact .inl ⟨rfl, rfl⟩
  | begun e hb => exact .inr (.start ((State.busy_false_iff s).mp hb) rfl rfl rfl)
  | reset => exact .inr (.reset rfl rfl s.abandon_req)
  | stage h => exact .inr h.transition
  | field h =>
    rw [h.sameButFields]
    exact .inl ⟨rfl, rfl⟩
  | outside h =>
    rw [h.sameRegisters]
    exact .inl ⟨rfl, rfl⟩

/-! ### Byte sums (R122, R128) -/

theorem sum8_perm {xs ys : List Byte} (h : xs.Perm ys) : sum8 xs = sum8 ys := by
  induction h with
  | nil => rfl
  | cons x _ ih => rw [sum8_cons, sum8_cons, ih]
  | swap x y zs => rw [sum8_cons, sum8_cons, sum8_cons, sum8_cons, add_left_comm]
  | trans _ _ ih₁ ih₂ => exact ih₁.trans ih₂

theorem sum8_toNat (xs : List Byte) : (sum8 xs).toNat = (xs.map BitVec.toNat).sum % 256 := by
  induction xs with
  | nil => rfl
  | cons x xs ih => rw [sum8_cons, BitVec.toNat_add, ih, List.map_cons, List.sum_cons, Nat.add_mod_mod]

/-- Settles O52: `neg8` is the negative modulo 256. -/
theorem byteSumLaws : Obligations.ByteSumLaws := by
  refine ⟨fun _ _ => sum8_perm, sum8_toNat, fun x => ⟨?_, ?_⟩, rfl, rfl⟩
  · rw [neg8_eq, BitVec.toNat_neg]
  · rw [neg8_eq, add_neg_cancel]

/-- One changed byte moves the sum by the change. -/
theorem sum8_set {f : List Byte} {i : Nat} {x : Byte} (y : Byte) (h : f[i]? = some x) :
    sum8 (f.set i y) = sum8 f + (y - x) := by
  induction f generalizing i with
  | nil => cases h
  | cons z f ih =>
    cases i with
    | zero =>
      cases h
      rw [List.set_cons_zero, sum8_cons, sum8_cons]
      abel
    | succ i => rw [List.set_cons_succ, sum8_cons, sum8_cons, ih h, add_assoc]

/-- Settles O55: the residual is a sum, and the two changes add up to nothing. -/
theorem checksumMissesReorderings : Obligations.ChecksumMissesReorderings := by
  refine ⟨fun f g h => by rw [checksumOk, checksumOk, sum8_perm h], fun f i j x y d hij hx hy => ?_⟩
  have hy' : (f.set i (x + d))[j]? = some y := by rw [List.getElem?_set_ne hij, hy]
  rw [checksumOk, checksumOk, sum8_set _ hy', sum8_set _ hx]
  congr 1
  abel

end Sys2Proof.Machine
end

section
/-! PROOFS. The statements about whole invocations (spec/41_frame_reader.md R121 to R125): from rest to `Done`, under the
oracle and under the reference Transport. -/

namespace Sys2Proof.Machine

/-! ### Runs that end an invocation -/

theorem run_succ {M : Host.Core} {s t : M.State} (h : M.step s = .next t) (n : Nat) : M.run (n + 1) s = M.run n t := by
  simp only [Host.Core.run, h]

theorem run_add {M : Host.Core} {n : Nat} {s t : M.State} (h : M.run n s = .next t) (m : Nat) :
    M.run (n + m) s = M.run m t := by
  induction n generalizing s with
  | zero =>
    cases h
    rw [Nat.zero_add]
  | succ n ih =>
    rw [Nat.add_right_comm]
    cases hs : M.step s with
    | next u =>
      rw [run_succ hs] at h ⊢
      exact ih h
    | fault f => simp [Host.Core.run, hs] at h
    | refused f => simp [Host.Core.run, hs] at h

theorem run_one (M : Host.Core) (s : M.State) : M.run 1 s = M.step s := by
  simp only [Host.Core.run]
  cases M.step s <;> rfl

/-- After `n` steps the invocation is over: the outputs show `r`, `w` is left on the wire and no act is left. -/
def State.Ends (s : State) (n : Nat) (r : ReadResult) (w : List Byte) : Prop :=
  ∃ t : State, Host.Core.run core n s = .next t ∧ t.Shows r ∧ t.wire = w ∧ t.schedule = []

theorem State.Ends.after {n m : Nat} {s t : State} {r : ReadResult} {w : List Byte}
    (h : Host.Core.run core n s = .next t) (ht : t.Ends m r w) : s.Ends (n + m) r w := by
  obtain ⟨u, hu, hend⟩ := ht
  exact ⟨u, (run_add (M := core) h m).trans hu, hend⟩

/-- Nothing is scheduled but turns of the block, at most `m` of them. -/
def AtMostTurns (m : Nat) (evs : List Event) : Prop := evs.length ≤ m ∧ ∀ ev ∈ evs, ev = .block

theorem atMostTurns_nil (m : Nat) : AtMostTurns m [] := ⟨Nat.zero_le m, fun _ h => nomatch h⟩

theorem AtMostTurns.tail {m : Nat} {evs : List Event} (h : AtMostTurns (m + 1) evs) : AtMostTurns m evs.tail := by
  refine ⟨?_, fun ev hev => h.2 ev (List.mem_of_mem_tail hev)⟩
  rw [List.length_tail]
  exact Nat.sub_le_of_le_add h.1

/-- The state in which the block takes the first of its scheduled turns, if one is scheduled. -/
def State.turn (s : State) : State := { s with schedule := s.schedule.tail }

/-- With nothing else scheduled a step is the block's turn. -/
theorem step_turn {s : State} {m : Nat} (hb : AtMostTurns m s.schedule) : step s = (selectBlock s.turn).outcome := by
  unfold State.turn
  cases hs : s.schedule with
  | nil => exact (step_blockTurn (.inl ⟨hs, by rw [List.tail_nil, ← hs]⟩)).1
  | cons ev rest =>
    rw [hb.2 ev (by rw [hs]; exact List.mem_cons_self)] at hs
    exact (step_blockTurn (t := { s with schedule := rest }) (.inr (.inl ⟨hs, rfl⟩))).1

theorem State.Ends.of_turn {s t : State} {m n : Nat} {r : ReadResult} {w : List Byte} (hb : AtMostTurns n s.schedule)
    (h : (selectBlock s.turn).outcome = .next t) (ht : t.Ends m r w) : s.Ends (m + 1) r w := by
  obtain ⟨u, hu, hend⟩ := ht
  exact ⟨u, (run_succ (M := core) ((step_turn hb).trans h) m).trans hu, hend⟩

/-- In `Done` the block's turns pass (R202). -/
theorem ends_shows {s : State} {r : ReadResult} {m : Nat} (h : s.Shows r) (hb : AtMostTurns m s.schedule) :
    s.Ends m r s.wire := by
  induction m generalizing s with
  | zero => exact ⟨s, rfl, h, rfl, List.eq_nil_of_length_eq_zero (Nat.eq_zero_of_le_zero hb.1)⟩
  | succ m ih =>
    have hs : s.turn.st = .done := by cases r <;> exact h.1
    have hturn : (selectBlock s.turn).outcome = .next s.turn := by simp only [selectBlock, hs, Fetched.outcome]
    have hshows : s.turn.Shows r := by cases r <;> exact h
    exact .of_turn hb hturn (ih hshows hb.tail)

theorem ends_raise {s : State} (k : Failure) {m : Nat} (hb : AtMostTurns m s.schedule) :
    (s.raise k).Ends m (.failed k) s.wire :=
  ends_shows (s := s.raise k) ⟨rfl, rfl⟩ hb

/-! ### What the block's turn is in each stage (R74) -/

section
variable (s : State) {a : Answer}

theorem selectBlock_awaitHeader (hs : s.st = .awaitHeader) (hr : s.rsp = some a) :
    (selectBlock s).outcome = execAwaitHeader a s := by
  simp only [selectBlock, hs, selectWaiting_answer _ hr, Fetched.outcome, exec]

theorem selectBlock_awaitLength (hs : s.st = .awaitLength) (hr : s.rsp = some a) :
    (selectBlock s).outcome = execAwaitLength a s := by
  simp only [selectBlock, hs, selectWaiting_answer _ hr, Fetched.outcome, exec]

theorem selectBlock_awaitPayload (hs : s.st = .awaitPayload) (hr : s.rsp = some a) :
    (selectBlock s).outcome = execAwaitPayload a s := by
  simp only [selectBlock, hs, selectWaiting_answer _ hr, Fetched.outcome, exec]

theorem selectBlock_validate (hs : s.st = .validate) : (selectBlock s).outcome = execValidate s := by
  simp only [selectBlock, hs, Fetched.outcome, exec]

theorem selectBlock_headerCheck (hs : s.st = .headerCheck) : (selectBlock s).outcome = execHeaderCheck s := by
  simp only [selectBlock, hs, Fetched.outcome, exec]

theorem selectBlock_success (hs : s.st = .success) : (selectBlock s).outcome = execSuccess s := by
  simp only [selectBlock, hs, Fetched.outcome, exec]

end

/-! ### The three internal stages on a whole frame (R115 to R117) -/

theorem State.Holds.withTurn {s : State} {h l : Byte} {body : List Byte} (hh : s.Holds h l body) (st : Stage)
    (evs : List Event) : State.Holds { s with st := st, schedule := evs } h l body :=
  ⟨hh.hdr, hh.len, hh.atLeast, hh.size, hh.cnt, hh.buf, hh.sum⟩

/-- What the caller reads after `SUCCESS` (R117, R19): the length without the checksum byte, and the body less that byte. -/
theorem shows_published {s : State} {l : Byte} {body : List Byte} (hs : s.st = .done) (hok : s.status = .ok)
    (hout : s.outLen = some (l - 3)) (hl : Config.lenMin ≤ l.toNat) (hsize : body.length = l.toNat - 2)
    (hbuf : s.buf = Memory.setBytes [] 0 body) : s.Shows (.ok (l - 3) (body.take (l.toNat - 3))) := by
  have hpay : s.payValid = true := (State.payValid_iff s).mpr ⟨hs, hok⟩
  have hlt := l.isLt
  have h3 : Config.lenMin = 3 := rfl
  have h253 : Config.bufDepth = 253 := rfl
  have hsub : (l - 3).toNat = l.toNat - 3 := by bv_omega
  refine ⟨hs, hok, ?_, ?_⟩
  · rw [State.readOutLen, if_pos hpay, hout, readReg_some]
  · simp only [State.readPayload, hpay, if_true, hout, readReg_some]
    rw [hbuf, hsub, Memory.read_setBytes _ (by omega) (by omega)]

section
variable {s : State} {e h l : Byte} {body : List Byte}

theorem ends_success (hs : s.st = .success) (hh : s.Holds h l body) (hb : AtMostTurns 1 s.schedule) :
    s.Ends 1 (.ok (l - 3) (body.take (l.toNat - 3))) s.wire := by
  obtain ⟨u, hu, -⟩ := unpackInto_published
    (s := { s.turn with outLen := some (l - 3), status := .ok }) hh.atLeast hh.size hh.buf rfl
  have hx := (selectBlock_success s.turn hs).trans (execSuccess_eq hs hh.len hu)
  rw [unpackInto_same hu] at hx
  exact .of_turn hb hx (ends_shows (shows_published rfl rfl rfl hh.atLeast hh.size hh.buf) hb.tail)

theorem ends_headerCheck (hs : s.st = .headerCheck) (hh : s.Holds h l body) (he : s.expHdr = some e)
    (hb : AtMostTurns 2 s.schedule) :
    s.Ends 2 (if h ≠ e then .failed .unexpectedHeader else .ok (l - 3) (body.take (l.toNat - 3))) s.wire := by
  have hx := (selectBlock_headerCheck s.turn hs).trans (execHeaderCheck_eq hs hh.hdr he)
  split
  · rename_i hne
    exact .of_turn hb (hx.trans (if_neg hne)) (ends_raise _ hb.tail)
  · rename_i heq
    exact .of_turn hb (hx.trans (if_pos (not_not.mp heq))) (ends_success rfl (hh.withTurn _ _) hb.tail)

/-- The three internal stages end the invocation as the tests on the whole frame say (R121). -/
theorem ends_validate (hs : s.st = .validate) (hh : s.Holds h l body) (he : s.expHdr = some e)
    (hb : AtMostTurns 3 s.schedule) : s.Ends 3 (judge e h l body) s.wire := by
  have hx := (selectBlock_validate s.turn hs).trans (execValidate_eq hs hh.sum)
  unfold judge
  split
  · rename_i hne
    exact .of_turn hb (hx.trans (if_neg hne)) (ends_raise _ hb.tail)
  · rename_i heq
    exact .of_turn hb (hx.trans (if_pos (not_not.mp heq))) (ends_headerCheck rfl (hh.withTurn _ _) he hb.tail)

end

/-! ### The waiting stages, on an answer from either Transport (R112 to R114) -/

/-- `s` with an answer on `rd_rsp`, and what the read that gave it left. -/
def State.withAnswer (s : State) (a : Answer) (w : List Byte) (tick : Nat) (evs : List Event) : State :=
  { s with rsp := some a, wire := w, tick := tick, schedule := evs }

/-- In two steps the Transport answers `a` to the waiting block, leaving `w` on the wire and the acts `evs`, and the
block's turn takes that answer. -/
def State.Serves (s : State) (a : Answer) (w : List Byte) (evs : List Event) : Prop :=
  ∃ tick, Host.Core.run core 2 s = (selectBlock (s.withAnswer a w tick evs)).outcome

/-- The block waits in stage `st` for `n` bytes of an invocation with expected header `e`. -/
structure State.Asks (s : State) (st : Stage) (e : Byte) (n : Nat) : Prop where
  st : s.st = st
  waiting : s.waiting = true
  expHdr : s.expHdr = some e
  buf : s.buf = []
  req : s.req = some n
  rsp : s.rsp = none

/-- The header and the length byte of the frame being read, the number of body bytes, and the sum (R112, R113). -/
structure State.Counts (s : State) (h l : Byte) : Prop where
  hdr : s.hdr = some h
  len : s.len = some l
  cnt : s.cnt = some (l - 2)
  sum : s.sum = some (h + l)

/-- Two steps lead to `t`, on the same Transport, with `w` left on its wire and the acts `evs` left. -/
structure State.Advances (s : State) (w : List Byte) (evs : List Event) (t : State) : Prop where
  run : Host.Core.run core 2 s = .next t
  cfg : t.cfg = s.cfg
  handle : t.handle = s.handle
  wire : t.wire = w
  schedule : t.schedule = evs

section
variable {s : State} {a : Answer} {e h l : Byte} {w : List Byte} {evs : List Event}

/-- An answer on which the stage's operation fails ends the invocation. -/
theorem State.Serves.ends_failed {k : Failure} {m : Nat} (hv : s.Serves a w evs)
    (hx : ∀ tick, ∃ u : State, (selectBlock (s.withAnswer a w tick evs)).outcome = .next (u.raise k) ∧ u.wire = w ∧
      u.schedule = evs) (hb : AtMostTurns m evs) : s.Ends (2 + m) (.failed k) w := by
  obtain ⟨tick, hrun⟩ := hv
  obtain ⟨u, hu, rfl, rfl⟩ := hx tick
  exact .after (hrun.trans hu) (ends_raise k hb)

theorem execAwaitHeader_failed {k : Failure} (hs : s.st = .awaitHeader)
    (ha : (a = .shortRead ∧ k = .timeout) ∨ (a = .unavailable ∧ k = .noDevice)) :
    execAwaitHeader a s = .next (s.answered.raise k) := by
  obtain ⟨rfl, rfl⟩ | ⟨rfl, rfl⟩ := ha <;> exact inStage_same hs

theorem State.Serves.header_failed {k : Failure} {m n : Nat} (hv : s.Serves a w evs) (hs : s.Asks .awaitHeader e n)
    (ha : (a = .shortRead ∧ k = .timeout) ∨ (a = .unavailable ∧ k = .noDevice)) (hb : AtMostTurns m evs) :
    s.Ends (2 + m) (.failed k) w :=
  hv.ends_failed (fun tick => ⟨_, (selectBlock_awaitHeader (s.withAnswer a w tick evs) hs.st rfl).trans
    (execAwaitHeader_failed hs.st ha), rfl, rfl⟩) hb

/-- Stage 1 with its byte goes on to stage 2. -/
theorem State.Serves.header_ok {n : Nat} (hv : s.Serves (.ok [h]) w evs) (hs : s.Asks .awaitHeader e n) :
    ∃ t, s.Advances w evs t ∧ t.Asks .awaitLength e 1 ∧ t.hdr = some h ∧ t.sum = some h := by
  obtain ⟨tick, hrun⟩ := hv
  have hx := (selectBlock_awaitHeader (s.withAnswer (.ok [h]) w tick evs) hs.st rfl).trans (inStage_same hs.st)
  exact ⟨_, ⟨hrun.trans hx, rfl, rfl, rfl, rfl⟩, ⟨rfl, rfl, hs.expHdr, hs.buf, rfl, rfl⟩, rfl, rfl⟩

theorem State.Serves.length_failed {m n : Nat} (hv : s.Serves a w evs) (hs : s.Asks .awaitLength e n)
    (ha : a = .shortRead ∨ a = .unavailable) (hb : AtMostTurns m evs) :
    s.Ends (2 + m) (.failed .timeout) w :=
  hv.ends_failed (fun tick => ⟨_, (selectBlock_awaitLength (s.withAnswer a w tick evs) hs.st rfl).trans
    (execAwaitLength_failed hs.st ha), rfl, rfl⟩) hb

theorem State.Serves.length_malformed {m n : Nat} (hv : s.Serves (.ok [l]) w evs) (hs : s.Asks .awaitLength e n)
    (hsm : s.sum = some h) (hl : l.toNat < 3) (hb : AtMostTurns m evs) :
    s.Ends (2 + m) (.failed .malformedPayload) w :=
  hv.ends_failed (fun tick => ⟨_, (selectBlock_awaitLength (s.withAnswer (.ok [l]) w tick evs) hs.st rfl).trans
    (execAwaitLength_malformed hs.st hsm hl), rfl, rfl⟩) hb

/-- Stage 2 with a length byte of at least 3 goes on to stage 3. -/
theorem State.Serves.length_ok {n : Nat} (hv : s.Serves (.ok [l]) w evs) (hs : s.Asks .awaitLength e n)
    (hh : s.hdr = some h) (hsm : s.sum = some h) (hl : 3 ≤ l.toNat) :
    ∃ t, s.Advances w evs t ∧ t.Asks .awaitPayload e (l.toNat - 2) ∧ t.Counts h l := by
  obtain ⟨tick, hrun⟩ := hv
  have hx := (selectBlock_awaitLength (s.withAnswer (.ok [l]) w tick evs) hs.st rfl).trans
    (execAwaitLength_asks hs.st hsm hl)
  exact ⟨_, ⟨hrun.trans hx, rfl, rfl, rfl, rfl⟩, ⟨rfl, rfl, hs.expHdr, hs.buf, rfl, rfl⟩, ⟨hh, rfl, rfl, rfl⟩⟩

theorem State.Serves.payload_failed {m n : Nat} (hv : s.Serves a w evs) (hs : s.Asks .awaitPayload e n)
    (ha : a = .shortRead ∨ a = .unavailable) (hb : AtMostTurns m evs) :
    s.Ends (2 + m) (.failed .timeout) w :=
  hv.ends_failed (fun tick => ⟨_, (selectBlock_awaitPayload (s.withAnswer a w tick evs) hs.st rfl).trans
    (execAwaitPayload_failed hs.st ha), rfl, rfl⟩) hb

/-- Stage 3 with its body holds a whole frame, on which the internal stages end the invocation. -/
theorem State.Serves.payload_ok {n : Nat} {body : List Byte} (hv : s.Serves (.ok body) w evs)
    (hs : s.Asks .awaitPayload e n) (hc : s.Counts h l) (hl : 3 ≤ l.toNat) (hsize : body.length = l.toNat - 2)
    (hb : AtMostTurns 3 evs) : s.Ends 5 (judge e h l body) w := by
  obtain ⟨tick, hrun⟩ := hv
  have hdep : body.length ≤ Config.bufDepth := by
    have hlt := l.isLt
    have h253 : Config.bufDepth = 253 := rfl
    omega
  have hx := (selectBlock_awaitPayload (s.withAnswer (.ok body) w tick evs) hs.st rfl).trans
    (execAwaitPayload_eq hs.st hc.cnt hc.sum (hsize.trans (toNat_sub_two hl).symm) hdep)
  refine .after (n := 2) (hrun.trans hx) (ends_validate rfl ⟨hc.hdr, hc.len, hl, hsize, hc.cnt, ?_, ?_⟩ hs.expHdr hb)
  · exact congrArg (Memory.setBytes · 0 body) hs.buf
  · simp only [sum8_cons, BitVec.add_assoc]

end

/-! ### The beginning of an invocation (R111) -/

/-- `START e` taken at rest leaves the block waiting for the header byte. -/
theorem step_start {s : State} {e : Byte} {rest : List Event} (hb : s.busy = false)
    (hsch : s.schedule = .cmd (startWord e) :: rest) :
    step s = .next (({ s with schedule := rest } : State).begin e) :=
  (step_cmd hsch (State.unshared_of_rest hb) (decodeCommand_startWord e)).trans (if_neg (Bool.eq_false_iff.mp hb))

theorem State.begin_asks (s : State) (e : Byte) : (s.begin e).Asks .awaitHeader e 1 :=
  ⟨rfl, rfl, rfl, rfl, rfl, rfl⟩

/-! ### An invocation under the oracle (R91) -/

theorem State.inside_of_waiting {s : State} (h : s.waiting = true) : s.inside = false := by
  simp only [State.waiting, Bool.or_eq_true, beq_iff_eq] at h
  obtain (h | h) | h := h <;> simp [State.inside, h]

/-- What the end of a read leaves, with its answer on `rd_rsp` (R48). -/
theorem State.consume_eq_withAnswer (s : State) (n : Nat) (a : Answer) : ({ s.consume n a with rsp := some a } : State) =
    s.withAnswer a (s.consume n a).wire (s.consume n a).tick s.schedule :=
  congrArg (fun t : State => { t with rsp := some a }) (s.consume_moves n a)

/-- One step that brings the answer, and the block's turn on it. -/
theorem serves_of_steps {s : State} {a : Answer} {w : List Byte} {tick : Nat} {evs evs' : List Event}
    (h : step s = .next (s.withAnswer a w tick evs'))
    (hu : step (s.withAnswer a w tick evs') = (selectBlock (s.withAnswer a w tick evs)).outcome) : s.Serves a w evs :=
  ⟨tick, (run_succ (M := core) h 1).trans ((run_one core _).trans hu)⟩

section
variable {s : State} {a a1 a2 a3 : Answer} {st : Stage} {e h l : Byte} {n : Nat} {rest : List Event} {r : ReadResult}
  {w : List Byte}

/-- The oracle answers the outstanding request, which leaves the wire as that answer does (R48, R91). -/
theorem serves_oracle (hs : s.Asks st e n) (hc : s.cfg.transport = .oracle)
    (ha : a.fits n = true) (hsch : s.schedule = .answer a :: .block :: rest) :
    s.Serves a (({ s with schedule := .block :: rest } : State).consume n a).wire rest := by
  have hanswer := step_answer (State.unshared_of_oracle (State.inside_of_waiting hs.waiting) hc) hc hs.req hs.rsp hsch ha
  rw [State.consume_eq_withAnswer] at hanswer
  exact serves_of_steps hanswer (step_blockTurn (.inr (.inl ⟨rfl, rfl⟩))).1

/-- A short answer takes fewer bytes than were asked for (log 9). -/
theorem serves_oracle_short (hs : s.Asks st e n) (hc : s.cfg.transport = .oracle) (hn : 0 < n)
    (hsch : s.schedule = .answer .shortRead :: .block :: rest) : ∃ k < n, s.Serves .shortRead (s.wire.drop k) rest := by
  have hserves := serves_oracle hs hc rfl hsch
  obtain ⟨k, tick, -, hk, -, he⟩ := State.consume_shortRead { s with schedule := .block :: rest } n
  rw [he] at hserves
  have := hk hc
  exact ⟨k, by omega, hserves⟩

/-- `s` ends after `m` steps as an invocation over the wire `w` with these answers (R121, R120, log 9). -/
def State.OracleEnds (s : State) (m : Nat) (r : ReadResult) (a1 a2 a3 : Answer) (w : List Byte) : Prop :=
  ∃ k < lastAsked a1 a2, s.Ends m r (w.drop (okBytes a1 a2 a3 + k)) ∧ (r ≠ .failed .timeout → k = 0)

theorem State.Advances.oracleEnds {m : Nat} {t : State} {evs : List Event} {w' : List Byte} (h : s.Advances w' evs t)
    (ht : t.OracleEnds m r a1 a2 a3 w) : s.OracleEnds (2 + m) r a1 a2 a3 w := by
  obtain ⟨k, hk, hend, h0⟩ := ht
  exact ⟨k, hk, .after h.run hend, h0⟩

theorem atMostTurns_three : AtMostTurns 3 [.block, .block, .block] := ⟨Nat.le_refl 3, by simp⟩

/-- Stage 3 under the oracle: what is asked is the body, after two bytes of the wire (R114). -/
theorem oracleEnds_payload (hs : s.Asks .awaitPayload e (l.toNat - 2)) (hc : s.Counts h l) (hl : 3 ≤ l.toNat)
    (ho : s.cfg.transport = .oracle) (hwire : s.wire = w.drop 2)
    (hsch : s.schedule = [.answer a3, .block, .block, .block, .block])
    (hr : readFrame e (.ok [h]) (.ok [l]) a3 = some r) : s.OracleEnds 5 r (.ok [h]) (.ok [l]) a3 w := by
  have hl' : ¬l.toNat < 3 := Nat.not_lt_of_le hl
  have hasked : lastAsked (.ok [h]) (.ok [l]) = l.toNat - 2 := if_neg hl'
  unfold State.OracleEnds
  rw [hasked]
  cases a3 with
  | ok body =>
    have hok : okBytes (.ok [h]) (.ok [l]) (.ok body) = l.toNat := if_neg hl'
    simp only [readFrame, if_neg hl'] at hr
    split at hr
    · rename_i hsize
      cases hr
      have hserves := serves_oracle (a := .ok body) hs ho (beq_iff_eq.mpr hsize) hsch
      rw [State.consume_ok] at hserves
      simp only [hwire, List.drop_drop, Nat.add_sub_cancel' (Nat.le_of_succ_le hl)] at hserves
      refine ⟨0, by omega, ?_, fun _ => rfl⟩
      rw [hok]
      exact hserves.payload_ok hs hc hl hsize atMostTurns_three
    · cases hr
  | shortRead =>
    simp only [readFrame, if_neg hl'] at hr
    cases hr
    obtain ⟨k, hk, hserves⟩ := serves_oracle_short hs ho (by omega) hsch
    rw [hwire, List.drop_drop] at hserves
    exact ⟨k, hk, hserves.payload_failed hs (.inl rfl) atMostTurns_three, fun hne => absurd rfl hne⟩
  | unavailable =>
    simp only [readFrame, if_neg hl'] at hr
    cases hr
    have hserves := serves_oracle hs ho rfl hsch
    rw [State.consume_unavailable] at hserves
    exact ⟨0, by omega, hwire ▸ hserves.payload_failed hs (.inr rfl) atMostTurns_three, fun _ => rfl⟩

/-- An answer that `read_frame` reads as the length byte has the size asked for. -/
theorem fits_of_readFrame_length (hr : readFrame e (.ok [h]) a2 a3 = some r) : a2.fits 1 = true := by
  rcases a2 with (_ | ⟨l, _ | ⟨l', bs⟩⟩) | _ | _
  case ok.nil | ok.cons.cons => cases hr
  all_goals rfl

theorem fits_of_readFrame_header (hr : readFrame e a1 a2 a3 = some r) : a1.fits 1 = true := by
  rcases a1 with (_ | ⟨l, _ | ⟨l', bs⟩⟩) | _ | _
  case ok.nil | ok.cons.cons => cases hr
  all_goals rfl

/-- Stage 2 under the oracle, after one byte of the wire (R113). -/
theorem oracleEnds_length (hs : s.Asks .awaitLength e 1) (hh : s.hdr = some h) (hsm : s.sum = some h)
    (ho : s.cfg.transport = .oracle) (hwire : s.wire = w.drop 1)
    (hsch : s.schedule = (oracleSchedule e (.ok [h]) a2 a3).drop 3) (hr : readFrame e (.ok [h]) a2 a3 = some r) :
    s.OracleEnds 7 r (.ok [h]) a2 a3 w := by
  have hf := fits_of_readFrame_length hr
  obtain ⟨l, rfl⟩ | rfl | rfl := Answer.fits_one hf
  · have hserves := serves_oracle hs ho hf hsch
    rw [State.consume_ok] at hserves
    simp only [hwire, List.drop_drop] at hserves
    by_cases hl : l.toNat < 3
    · simp only [readFrame, if_pos hl] at hr
      cases hr
      rw [if_pos hl] at hserves
      have hend := hserves.length_malformed hs hsm hl (atMostTurns_nil 5)
      refine ⟨0, ?_, ?_, fun _ => rfl⟩
      · simp only [lastAsked, if_pos hl, Nat.zero_lt_one]
      · cases a3 <;> simp only [okBytes, if_pos hl] <;> exact hend
    · rw [if_neg hl] at hserves
      obtain ⟨t, hadv, ht, hc⟩ := hserves.length_ok hs hh hsm (Nat.le_of_not_lt hl)
      exact hadv.oracleEnds (oracleEnds_payload ht hc (Nat.le_of_not_lt hl) (hadv.cfg ▸ ho) hadv.wire hadv.schedule hr)
  · cases hr
    obtain ⟨k, hk, hserves⟩ := serves_oracle_short hs ho Nat.zero_lt_one hsch
    rw [hwire, List.drop_drop] at hserves
    exact ⟨k, hk, hserves.length_failed hs (.inl rfl) (atMostTurns_nil 5), fun hne => absurd rfl hne⟩
  · cases hr
    have hserves := serves_oracle hs ho rfl hsch
    rw [State.consume_unavailable] at hserves
    exact ⟨0, Nat.zero_lt_one, hwire ▸ hserves.length_failed hs (.inr rfl) (atMostTurns_nil 5), fun _ => rfl⟩

/-- Stage 1 under the oracle (R112). -/
theorem oracleEnds_header (hs : s.Asks .awaitHeader e 1) (ho : s.cfg.transport = .oracle)
    (hsch : s.schedule = (oracleSchedule e a1 a2 a3).tail) (hr : readFrame e a1 a2 a3 = some r) :
    s.OracleEnds 9 r a1 a2 a3 s.wire := by
  have hf := fits_of_readFrame_header hr
  obtain ⟨h, rfl⟩ | rfl | rfl := Answer.fits_one hf
  · obtain ⟨t, hadv, ht, hh, hsm⟩ := (serves_oracle hs ho hf hsch).header_ok hs
    exact hadv.oracleEnds (oracleEnds_length ht hh hsm (hadv.cfg ▸ ho) hadv.wire hadv.schedule hr)
  · cases hr
    obtain ⟨k, hk, hserves⟩ := serves_oracle_short hs ho Nat.zero_lt_one hsch
    exact ⟨k, hk, (Nat.zero_add k).symm ▸ hserves.header_failed hs (.inl ⟨rfl, rfl⟩) (atMostTurns_nil 7),
      fun hne => absurd rfl hne⟩
  · cases hr
    have hserves := serves_oracle hs ho rfl hsch
    rw [State.consume_unavailable] at hserves
    exact ⟨0, Nat.zero_lt_one, hserves.header_failed hs (.inr ⟨rfl, rfl⟩) (atMostTurns_nil 7), fun _ => rfl⟩

end

/-- Settles O56: the command, and then the stages in turn, each on the answer it asked for. -/
theorem invocationUnderTheOracle : Obligations.InvocationUnderTheOracle := by
  intro s e a1 a2 a3 r hb hc hsch hr
  have hstart := step_start (rest := (oracleSchedule e a1 a2 a3).tail) hb hsch
  obtain ⟨k, hk, ⟨t, hrun, hshows, hwire, hnil⟩, h0⟩ := oracleEnds_header
    (State.begin_asks { s with schedule := (oracleSchedule e a1 a2 a3).tail } e) hc rfl hr
  exact ⟨t, (run_succ (M := core) hstart 9).trans hrun, hshows, hnil, k, hk, hwire, h0⟩

/-! ### An invocation under the reference Transport (R100) -/

section
variable {s : State} {st : Stage} {e h l : Byte} {n : Nat}

/-- The reference Transport answers at once with the end of its read. -/
theorem serves_reference (hs : s.Asks st e n) (hc : s.cfg.transport = .reference) (h0 : n ≠ 0)
    (hn : s.schedule = []) : s.Serves (endRead n s).1 (endRead n s).2.wire [] := by
  have hb : s.busy = true := by rw [State.busy_eq, hs.waiting, Bool.true_or]
  obtain ⟨-, -, -, -, hread, -⟩ := stepRunsTheSelectedStage s s (.inl ⟨hn, rfl⟩)
  have hanswer := (hread n hs.waiting hs.rsp hs.req hc).trans (exec_tRead_block h0 hb hs.req hs.rsp)
  have hleft := s.consume_eq_withAnswer n (readAnswer n s)
  rw [← hn]
  exact serves_of_steps (hanswer.trans (congrArg Host.Outcome.next hleft))
    (step_blockTurn (s := s.withAnswer _ _ _ _) (.inl ⟨hn, rfl⟩)).1

theorem serves_reference_enough (hs : s.Asks st e n) (hc : s.cfg.transport = .reference)
    (h0 : n ≠ 0) (hn : s.schedule = []) (hh : s.handle ≠ none) (hle : n ≤ s.wire.length) :
    s.Serves (.ok (s.wire.take n)) (s.wire.drop n) [] := by
  have hserves := serves_reference hs hc h0 hn
  rwa [endRead_enough hh hle] at hserves

/-- A short read takes all there is (R100). -/
theorem serves_reference_short (hs : s.Asks st e n) (hc : s.cfg.transport = .reference)
    (hn : s.schedule = []) (hh : s.handle ≠ none) (hlt : s.wire.length < n) : s.Serves .shortRead [] [] := by
  have hserves := serves_reference hs hc (Nat.ne_zero_of_lt hlt) hn
  obtain ⟨k, -, tick, href, he⟩ := endRead_short hh hlt
  rw [he, (href hc).1] at hserves
  simpa only [List.drop_length] using hserves

/-- Stage 3 under the reference Transport, the header and the length byte taken from the wire (R114). -/
theorem ends_reference_payload (hs : s.Asks .awaitPayload e (l.toNat - 2)) (hc : s.Counts h l) (hl : 3 ≤ l.toNat)
    (hr : s.cfg.transport = .reference) (hn : s.schedule = []) (hh : s.handle ≠ none) :
    s.Ends 5 (readFrameW e true (h :: l :: s.wire)).1 (readFrameW e true (h :: l :: s.wire)).2 := by
  simp only [readFrameW, if_true, if_neg (Nat.not_lt_of_le hl), List.length_cons]
  split
  · exact (serves_reference_short hs hr hn hh (by omega)).payload_failed hs (.inl rfl) (atMostTurns_nil 3)
  · have hle : l.toNat - 2 ≤ s.wire.length := by omega
    exact (serves_reference_enough hs hr (by omega) hn hh hle).payload_ok hs hc hl (List.length_take_of_le hle)
      (atMostTurns_nil 3)

/-- Stage 2 under the reference Transport, the header taken from the wire (R113). -/
theorem ends_reference_length (hs : s.Asks .awaitLength e 1) (hx : s.hdr = some h) (hsm : s.sum = some h)
    (hr : s.cfg.transport = .reference) (hn : s.schedule = []) (hh : s.handle ≠ none) :
    s.Ends 7 (readFrameW e true (h :: s.wire)).1 (readFrameW e true (h :: s.wire)).2 := by
  cases hwire : s.wire with
  | nil =>
    have hserves := serves_reference_short hs hr hn hh (by simp [hwire])
    exact hserves.length_failed hs (.inl rfl) (atMostTurns_nil 5)
  | cons l rest =>
    have hserves := serves_reference_enough hs hr Nat.one_ne_zero hn hh (by simp [hwire])
    simp only [hwire, List.take_succ_cons, List.take_zero, List.drop_succ_cons, List.drop_zero] at hserves
    by_cases hl : l.toNat < 3
    · have hend := hserves.length_malformed hs hsm hl (atMostTurns_nil 5)
      simpa only [readFrameW, if_true, if_pos hl] using hend
    · obtain ⟨t, hadv, ht, hc⟩ := hserves.length_ok hs hx hsm (Nat.le_of_not_lt hl)
      have hend := ends_reference_payload ht hc (Nat.le_of_not_lt hl) (hadv.cfg ▸ hr) hadv.schedule (hadv.handle ▸ hh)
      rw [hadv.wire] at hend
      exact .after hadv.run hend

/-- Stage 1 under the reference Transport, with an open or a null handle (R112). -/
theorem ends_reference_header (hs : s.Asks .awaitHeader e 1) (hr : s.cfg.transport = .reference) (hn : s.schedule = []) :
    s.Ends 9 (readFrameW e s.handle.isSome s.wire).1 (readFrameW e s.handle.isSome s.wire).2 := by
  by_cases hh : s.handle = none
  · have hserves := serves_reference hs hr Nat.one_ne_zero hn
    rw [endRead_null hh] at hserves
    rw [hh]
    exact hserves.header_failed hs (.inr ⟨rfl, rfl⟩) (atMostTurns_nil 7)
  · rw [Option.isSome_iff_ne_none.mpr hh]
    cases hwire : s.wire with
    | nil =>
      have hserves := serves_reference_short hs hr hn hh (by simp [hwire])
      exact hserves.header_failed hs (.inl ⟨rfl, rfl⟩) (atMostTurns_nil 7)
    | cons h rest =>
      have hserves := serves_reference_enough hs hr Nat.one_ne_zero hn hh (by simp [hwire])
      simp only [hwire, List.take_succ_cons, List.take_zero, List.drop_succ_cons, List.drop_zero] at hserves
      obtain ⟨t, hadv, ht, hx, hsm⟩ := hserves.header_ok hs
      have hend := ends_reference_length ht hx hsm (hadv.cfg ▸ hr) hadv.schedule (hadv.handle ▸ hh)
      rw [hadv.wire] at hend
      exact .after hadv.run hend

end

/-- Settles O57: the command, and then the stages in turn, each on the read it asked for. -/
theorem invocationUnderTheReferenceTransport : Obligations.InvocationUnderTheReferenceTransport := by
  intro s e hb hc hsch
  obtain ⟨t, hrun, hshows, hwire, hnil⟩ := ends_reference_header (State.begin_asks { s with schedule := [] } e) hc rfl
  exact ⟨t, (run_succ (M := core) (step_start hb hsch) 9).trans hrun, hshows, hwire, hnil⟩

/-! ### A whole frame under either Transport (R123 to R125) -/

/-- A well-sized frame is its header, its length byte, and the body that the length byte counts (R72). -/
theorem wellSized_iff {f : List Byte} :
    wellSized f = true ↔ ∃ h l body, f = h :: l :: body ∧ 3 ≤ l.toNat ∧ body.length = l.toNat - 2 := by
  rcases f with _ | ⟨h, _ | ⟨l, body⟩⟩
  · simp [wellSized]
  · simp [wellSized]
  · simp only [wellSized, decide_eq_true_eq, List.length_cons]
    constructor
    · rintro ⟨h3, hl⟩
      exact ⟨h, l, body, rfl, by omega, by omega⟩
    · rintro ⟨h', l', body', heq, h3, hl⟩
      cases heq
      omega

section
variable {s : State} {e h l : Byte} {body rest : List Byte}

/-- Both forms of an invocation on a well-sized frame are the tests on it (R121). -/
theorem readFrame_frame (hl : 3 ≤ l.toNat) (hsize : body.length = l.toNat - 2) :
    readFrame e (.ok [h]) (.ok [l]) (.ok body) = some (judge e h l body) := by
  simp only [readFrame, if_neg (Nat.not_lt_of_le hl), if_pos hsize]

theorem readFrameW_frame (hl : 3 ≤ l.toNat) (hsize : body.length = l.toNat - 2) :
    readFrameW e true (h :: l :: body ++ rest) = (judge e h l body, rest) := by
  have hlong : ¬(h :: l :: (body ++ rest)).length < l.toNat := by
    simp only [List.length_cons, List.length_append]
    omega
  simp only [readFrameW, List.cons_append, if_true, if_neg (Nat.not_lt_of_le hl), if_neg hlong, ← hsize, List.take_left,
    List.drop_left]

theorem judge_ne_timeout (e h l : Byte) (body : List Byte) : judge e h l body ≠ .failed .timeout := by
  unfold judge
  split
  · simp
  · split <;> simp

/-- An invocation on the frame of `h`, `l` and `body` ends as the tests on it say, with the frame consumed, by the
oracle's answers and from the reference wire. -/
theorem invocation_reads_frame (hl : 3 ≤ l.toNat) (hsize : body.length = l.toNat - 2) (hb : s.busy = false) :
    (s.cfg.transport = .oracle → s.schedule = oracleSchedule e (.ok [h]) (.ok [l]) (.ok body) →
      ∃ t, Host.Core.run core 10 s = .next t ∧ t.Shows (judge e h l body) ∧
        t.wire = s.wire.drop (h :: l :: body).length) ∧
    (s.cfg.transport = .reference → s.handle ≠ none → s.wire = h :: l :: body ++ rest →
      s.schedule = [.cmd (startWord e)] →
      ∃ t, Host.Core.run core 10 s = .next t ∧ t.Shows (judge e h l body) ∧ t.wire = rest) := by
  refine ⟨fun hc hsch => ?_, fun hc hh hwire hsch => ?_⟩
  · obtain ⟨t, hrun, hshows, -, k, -, hwire, h0⟩ :=
      invocationUnderTheOracle s e _ _ _ _ hb hc hsch (readFrame_frame hl hsize)
    have hok : okBytes (.ok [h]) (.ok [l]) (.ok body) = (h :: l :: body).length := by
      simp only [okBytes, if_neg (Nat.not_lt_of_le hl), List.length_cons]
      omega
    rw [h0 (judge_ne_timeout e h l body), hok] at hwire
    exact ⟨t, hrun, hshows, hwire⟩
  · obtain ⟨t, hrun, hshows, hleft, -⟩ := invocationUnderTheReferenceTransport s e hb hc hsch
    rw [Option.isSome_iff_ne_none.mpr hh, hwire, readFrameW_frame hl hsize] at hshows hleft
    exact ⟨t, hrun, hshows, hleft⟩

theorem judge_mismatch (hsum : sum8 (h :: l :: body) ≠ 0) : judge e h l body = .failed .checksumMismatch :=
  if_pos hsum

theorem judge_otherHeader (hsum : sum8 (h :: l :: body) = 0) (hne : h ≠ e) :
    judge e h l body = .failed .unexpectedHeader :=
  (if_neg (not_not.mpr hsum)).trans (if_pos hne)

theorem judge_ok (hsum : sum8 (h :: l :: body) = 0) : judge h h l body = .ok (l - 3) (body.take (l.toNat - 3)) :=
  (if_neg (not_not.mpr hsum)).trans (if_neg (not_not.mpr rfl))

end

/-- A made frame passes the tests with its payload (R72, R121). -/
theorem judge_mkFrame (e : Byte) {d : List Byte} (hd : d.length ≤ 252) :
    judge e e (BitVec.ofNat 8 (d.length + 3)) ((mkFrame e d).drop 2) = .ok (BitVec.ofNat 8 d.length) d := by
  obtain ⟨-, hsum, -⟩ := madeFramesAreOk e d hd
  have hlen : BitVec.ofNat 8 (d.length + 3) - 3 = BitVec.ofNat 8 d.length := by
    rw [BitVec.ofNat_add]
    exact add_sub_cancel_right _ _
  refine (judge_ok (beq_iff_eq.mp hsum)).trans ?_
  rw [hlen, ← toNat_frameLength hd, Nat.add_sub_cancel]
  exact congrArg _ List.take_left

/-- Settles O58: the tests on a made frame give its payload. -/
theorem validFramesAreAccepted : Obligations.ValidFramesAreAccepted := by
  intro s e d rest hd hb
  have hnat := toNat_frameLength hd
  have hsize : ((mkFrame e d).drop 2).length = (BitVec.ofNat 8 (d.length + 3)).toNat - 2 := by
    rw [List.length_drop, mkFrame, length_frameBytes]
    omega
  have hlen : (e :: BitVec.ofNat 8 (d.length + 3) :: (mkFrame e d).drop 2).length = d.length + 3 :=
    length_frameBytes _ _ _ _
  have hread := invocation_reads_frame (e := e) (h := e) (rest := rest) (by omega) hsize hb
  rw [judge_mkFrame e hd, hlen] at hread
  exact hread

/-- A change of any byte but the length byte leaves a frame well sized. -/
theorem wellSized_set {f : List Byte} {i : Nat} (x : Byte) (hf : wellSized f = true) (hi : i ≠ 1) :
    wellSized (f.set i x) = true := by
  obtain ⟨h, l, body, rfl, hl, hsize⟩ := wellSized_iff.mp hf
  match i, hi with
  | 0, _ => exact wellSized_iff.mpr ⟨x, l, body, rfl, hl, hsize⟩
  | 1, hi => exact absurd rfl hi
  | i + 2, _ => exact wellSized_iff.mpr ⟨h, l, body.set i x, rfl, hl, by rw [List.length_set, hsize]⟩

/-- Settles O59: the byte moves the sum off zero, and the length byte still counts the frame. -/
theorem oneCorruptedByteIsAMismatch : Obligations.OneCorruptedByteIsAMismatch := by
  intro s e x f g rest i hok hi hi1 hx hg
  simp only [frameOk, Bool.and_eq_true, checksumOk, beq_iff_eq] at hok
  obtain ⟨⟨hsize, hsum⟩, -⟩ := hok
  have hfi := List.getElem?_eq_getElem hi
  have hsum' : sum8 g ≠ 0 := by
    rw [hg, sum8_set x hfi, hsum, zero_add, sub_ne_zero]
    exact fun heq => hx (heq ▸ hfi)
  have hlen : f.length = g.length := by rw [hg, List.length_set]
  obtain ⟨h, l, body, rfl, hl, hbody⟩ := wellSized_iff.mp (hg ▸ wellSized_set x hsize hi1 : wellSized g = true)
  rw [hlen, ← judge_mismatch (e := e) hsum']
  have hread := invocation_reads_frame (s := s) (e := e) (h := h) (rest := rest) hl hbody
  exact ⟨readFrameW_frame hl hbody, fun hb => (hread hb).1, fun hb => (hread hb).2⟩

/-- Settles O60: the sum is zero and the header is another. -/
theorem anotherHeaderIsUnexpected : Obligations.AnotherHeaderIsUnexpected := by
  intro s e f rest hsize hsum hhead hb
  obtain ⟨h, l, body, rfl, hl, hlen⟩ := wellSized_iff.mp hsize
  have hne : h ≠ e := fun heq => hhead (congrArg some heq)
  rw [← judge_otherHeader (beq_iff_eq.mp hsum) hne]
  exact invocation_reads_frame hl hlen hb

end Sys2Proof.Machine
end

section
/-! PROOFS. The statements about the payload unpacker (spec/42_payload_unpacker.md): `SEXT24`, `EXTRACT 0` to `EXTRACT 8`,
`UNPACK` and its lanes, and the byte strings that `pack` makes. -/

namespace Sys2Proof.Machine

/-! ### `SEXT24` (R142) -/

/-- The two branches of the source's pseudocode as integers: with bit 23 set, 2^24 less. -/
theorem sext24_toInt_cases (raw : Raw) : (sext24 raw).toInt =
    if 8388608 ≤ raw.toNat then (raw.toNat : Int) - 16777216 else raw.toNat := by
  rw [sext24_toInt, BitVec.toInt_eq_toNat_cond]
  split <;> split <;> omega

theorem sext24_toInt_range (raw : Raw) : -8388608 ≤ (sext24 raw).toInt ∧ (sext24 raw).toInt ≤ 8388607 := by
  have := raw.isLt
  rw [sext24_toInt_cases]
  split <;> omega

theorem sext24_toInt_emod (raw : Raw) : (sext24 raw).toInt % 16777216 = raw.toNat := by
  have := raw.isLt
  rw [sext24_toInt_cases]
  split <;> omega

/-- Bits 31:24 repeat bit 23. -/
theorem sext24_getLsbD_high (raw : Raw) {i : Nat} (hi : 24 ≤ i) (h32 : i < 32) :
    (sext24 raw).getLsbD i = raw.getLsbD 23 := by
  rw [sext24_eq, BitVec.getLsbD_signExtend, if_neg (Nat.not_lt.mpr hi), decide_eq_true h32, Bool.true_and,
    BitVec.msb_eq_getLsbD_last]

theorem setWidth_sext24 (raw : Raw) : (sext24 raw).setWidth 24 = raw := by
  apply BitVec.eq_of_getLsbD_eq
  intro i hi
  rw [sext24_eq, BitVec.getLsbD_setWidth, BitVec.getLsbD_signExtend, if_pos hi]
  simp [hi, hi.trans (by decide : 24 < 32)]

theorem sext24_injective : Function.Injective sext24 :=
  Function.LeftInverse.injective setWidth_sext24

/-- Every integer of 24 bits signed is the value of a raw field. -/
theorem exists_sext24_toInt {v : Int} (hlo : -8388608 ≤ v) (hhi : v ≤ 8388607) : ∃ raw, (sext24 raw).toInt = v :=
  ⟨BitVec.ofInt 24 v, by rw [sext24_toInt, BitVec.toInt_ofInt_eq_self] <;> omega⟩

/-- A word of 24 bits signed is the sign extension of its low 24 bits. -/
theorem sext24_setWidth {w : Word} (hlo : -8388608 ≤ w.toInt) (hhi : w.toInt ≤ 8388607) :
    sext24 (w.setWidth 24) = w := by
  obtain ⟨raw, hraw⟩ := exists_sext24_toInt hlo hhi
  rw [← BitVec.eq_of_toInt_eq hraw, setWidth_sext24]

/-- Settles O17: `sext24` is a bijection onto the integers of 24 bits signed, undone by the low 24 bits. -/
theorem sextTwentyFourSignExtends : Obligations.SextTwentyFourSignExtends := by
  refine ⟨fun raw s => ?_, fun v hlo hhi => ?_⟩
  · obtain ⟨hlo, hhi⟩ := sext24_toInt_range raw
    exact ⟨sext24 raw, rfl, rfl, sext24_toInt_cases raw, hlo, hhi, fun _ => sext24_getLsbD_high raw,
      setWidth_sext24 raw⟩
  · obtain ⟨raw, rfl⟩ := exists_sext24_toInt hlo hhi
    exact ⟨raw, rfl, (sext24_toInt_emod raw).symm, fun _ h => sext24_injective (BitVec.eq_of_toInt_eq h)⟩

/-! ### `EXTRACT 0` to `EXTRACT 8` (R143 to R151) -/

/-- Settles O18: an extraction is the write of its raw field's sign extension. -/
theorem extractWritesItsField : Obligations.ExtractWritesItsField := by
  intro k s b0 b1 b2 h0 h1 h2
  rw [exec_extract, orFault_next_eq, extractInto_eq_ok]
  exact ⟨_, rawField_eq h0 h1 h2, by rw [sext24_eq]; rfl⟩

/-! ### `UNPACK` as a function of a byte string (R141) -/

theorem unpackPayload_eq_some {p : List Byte} {v : Vector Word 9} : unpackPayload p = some v ↔
    p.length = 27 ∧ ∀ k (hk : k < 9),
      v[k] = sext24 (rawOf (p.getD (3 * k) 0) (p.getD (3 * k + 1) 0) (p.getD (3 * k + 2) 0)) := by
  unfold unpackPayload
  split
  · rw [Option.some.injEq, Vector.ext_iff]
    simp [*, eq_comm]
  · simp [*]

theorem exists_unpackPayload {p : List Byte} (h : p.length = 27) : ∃ v, unpackPayload p = some v :=
  ⟨_, if_pos h⟩

/-- A field's integer is its three bytes' sum, read as two's complement of 24 bits (R43, R67). -/
theorem sext24_rawOf_toInt (b0 b1 b2 : Byte) : (sext24 (rawOf b0 b1 b2)).toInt =
    Int.bmod ((b0.toNat : Int) + 256 * b1.toNat + 65536 * b2.toNat) 16777216 := by
  rw [sext24_toInt, BitVec.toInt_eq_toNat_bmod, rawOf_toNat]
  push_cast
  rfl

/-- Settles O16: the length decides, and each field is the sign extension of its three bytes. -/
theorem unpackPayloadIsTotalOnTwentySevenBytes : Obligations.UnpackPayloadIsTotalOnTwentySevenBytes := by
  refine fun p => ⟨fun hne => if_neg hne, fun hp => ?_⟩
  obtain ⟨v, hv⟩ := exists_unpackPayload hp
  refine ⟨v, hv, fun k hk b0 b1 b2 h0 h1 h2 => ?_⟩
  obtain ⟨-, hfields⟩ := unpackPayload_eq_some.mp hv
  rw [hfields k hk, List.getD_eq_getElem?_getD, List.getD_eq_getElem?_getD, List.getD_eq_getElem?_getD, h0, h1, h2]
  exact sext24_rawOf_toInt b0 b1 b2

/-! ### `UNPACK` as an operation (R141, R152) -/

/-- Settles O15: the length test decides between all and none. -/
theorem unpackWritesAllFieldsOrNone : Obligations.UnpackWritesAllFieldsOrNone := by
  refine fun s n hn => ⟨fun hne => ?_, fun p v h27 hp hv => ?_⟩
  · exact orFault_next_eq.mpr (unpackInto_short hn hne)
  · subst h27
    exact orFault_next_eq.mpr (unpackInto_full hn hp hv)

/-- An `UNPACK` of 27 bytes that completes has met a value in each of them. -/
theorem lookup_of_unpackInto {s t : State} (ho : s.outLen = some 27) (h : unpackInto s = .ok t) :
    ∀ i < 27, Memory.lookup s.buf i ≠ none := by
  intro i
  induction i using Nat.strongRecOn with
  | ind i ih =>
    intro hi hn
    have hfault := unpackInto_missing ho hi (fun j hj => ih j hj (hj.trans hi)) hn
    rw [h] at hfault
    cases hfault

/-- On nine raw fields in the buffer, `UNPACK` writes their sign extensions and the values of those. -/
theorem unpackInto_of_rawFields {s : State} {v : Vector Word 9} (ho : s.outLen = some 27)
    (hv : ∀ k : Fin 9, ∃ raw, rawField s.buf k = .ok raw ∧ sext24 raw = v[k.val]) :
    unpackInto s = .ok { s with fld := v.map some, val := scaled s.cfg.scale v } := by
  unfold unpackInto
  simp only [ho, readReg_some, forEach_extractInto hv]
  exact forEach_scaleInto rfl

/-- The nine fields that `UNPACK` leaves, each from its own raw field, and the seven values of them. -/
theorem unpackInto_fields {s t : State} (ho : s.outLen = some 27) (h : unpackInto s = .ok t) :
    ∃ v : Vector Word 9, (∀ k : Fin 9, ∃ raw, rawField s.buf k = .ok raw ∧ sext24 raw = v[k.val]) ∧
      t.fld = v.map some ∧ t.val = scaled s.cfg.scale v := by
  have hlook := lookup_of_unpackInto ho h
  have hraw : ∀ k : Fin 9, ∃ raw, rawField s.buf k = .ok raw := fun k =>
    rawField_of_bytes fun j hj => hlook _ (by omega)
  choose raw hraw using hraw
  have hv : ∀ k : Fin 9, ∃ r, rawField s.buf k = .ok r ∧ sext24 r = (Vector.ofFn fun k => sext24 (raw k))[k.val] :=
    fun k => ⟨raw k, hraw k, by simp⟩
  rw [unpackInto_of_rawFields ho hv] at h
  cases h
  exact ⟨_, hv, rfl, rfl⟩

theorem rawField_congr {m n : Memory} {k : Fin 9}
    (h : ∀ i, 3 * k.val ≤ i → i ≤ 3 * k.val + 2 → Memory.readByte m i = Memory.readByte n i) :
    rawField m k = rawField n k := by
  unfold rawField
  rw [h (3 * k.val) (by omega) (by omega), h (3 * k.val + 1) (by omega) (by omega),
    h (3 * k.val + 2) (by omega) (by omega)]

theorem scaled_getElem (r : ScaleReading) (v : Vector Word 9) (j : Fin 7) :
    (scaled r v)[j] = some (scaleFn r j (v[j.val + 2]'(by omega))) := by
  simp [scaled]

/-- Settles O19: the raw field is the same, so are the field and what the scaler makes of it. -/
theorem unpackLanesAreIndependent : Obligations.UnpackLanesAreIndependent := by
  intro s t s' t' k hs ht hc hs' ht' hb
  obtain ⟨v, hv, hfld, hval⟩ := unpackInto_fields hs (orFault_next_eq.mp hs')
  obtain ⟨w, hw, hfld', hval'⟩ := unpackInto_fields ht (orFault_next_eq.mp ht')
  have hvw : v[k.val] = w[k.val] := by
    obtain ⟨raw, hraw, hv⟩ := hv k
    obtain ⟨raw', hraw', hw⟩ := hw k
    rw [rawField_congr hb, hraw'] at hraw
    cases hraw
    rw [← hv, hw]
  refine ⟨by simp [hfld, hfld', hvw], fun j hj => ?_⟩
  simp only [hval, hval', scaled_getElem, hc, hj, hvw]

/-! ### `pack` (R154) -/

/-- The three bytes of a word are its low 24 bits. -/
theorem rawOf_extract (w : Word) :
    rawOf (w.extractLsb' 0 8) (w.extractLsb' 8 8) (w.extractLsb' 16 8) = w.setWidth 24 := by
  have hhigh : w.extractLsb' 16 8 ++ w.extractLsb' 8 8 = w.extractLsb' 8 16 :=
    BitVec.extractLsb'_append_extractLsb'_eq_extractLsb' rfl
  have hall : w.extractLsb' 8 16 ++ w.extractLsb' 0 8 = w.extractLsb' 0 24 :=
    BitVec.extractLsb'_append_extractLsb'_eq_extractLsb' rfl
  rw [rawOf, hhigh, hall, BitVec.setWidth_eq_extractLsb' (by decide)]

theorem packField_eq (w : Word) : packField w =
    [(w.setWidth 24).extractLsb' 0 8, (w.setWidth 24).extractLsb' 8 8, (w.setWidth 24).extractLsb' 16 8] := by
  simp [packField, BitVec.extractLsb'_setWidth_of_le]

theorem packField_sext24 (b0 b1 b2 : Byte) : packField (sext24 (rawOf b0 b1 b2)) = [b0, b1, b2] := by
  have h0 : (rawOf b0 b1 b2).extractLsb' 0 8 = b0 := BitVec.extractLsb'_append_eq_right
  have h1 : (rawOf b0 b1 b2).extractLsb' 8 8 = b1 :=
    (BitVec.extractLsb'_append_eq_of_le (Nat.le_refl 8)).trans BitVec.extractLsb'_append_eq_right
  have h2 : (rawOf b0 b1 b2).extractLsb' 16 8 = b2 :=
    (BitVec.extractLsb'_append_eq_of_le (by decide)).trans BitVec.extractLsb'_append_eq_left
  rw [packField_eq, setWidth_sext24, h0, h1, h2]

/-- Byte `r` of field `k` stands at offset `3 k + r`. -/
theorem flatMap_packField_getElem? (ws : List Word) (k : Nat) {r : Nat} (hr : r < 3) :
    (ws.flatMap packField)[3 * k + r]? = ws[k]?.bind fun w => (packField w)[r]? := by
  induction ws generalizing k with
  | nil => rfl
  | cons w ws ih =>
    rw [List.flatMap_cons]
    cases k with
    | zero =>
      rw [List.getElem?_append_left (by simpa [packField] using hr)]
      simp
    | succ k =>
      rw [List.getElem?_append_right (by simp [packField]; omega), List.getElem?_cons_succ, ← ih]
      congr 1
      simp only [packField, List.length_cons, List.length_nil]
      omega

theorem length_pack (v : Vector Word 9) : (pack v).length = 27 := by
  simp [pack, List.length_flatMap, packField]

theorem getD_pack (v : Vector Word 9) {k r : Nat} (hk : k < 9) (hr : r < 3) (x : Byte) :
    (pack v).getD (3 * k + r) x = (packField v[k])[r]'hr := by
  have hbyte : (pack v)[3 * k + r]? = (packField v[k])[r]? := by
    rw [pack, flatMap_packField_getElem? _ _ hr]
    simp [hk]
  rw [List.getD_eq_getElem?_getD, hbyte, List.getElem?_eq_getElem hr, Option.getD_some]

theorem unpackPayload_pack {v : Vector Word 9} (hv : ∀ k : Fin 9, -8388608 ≤ v[k].toInt ∧ v[k].toInt ≤ 8388607) :
    unpackPayload (pack v) = some v := by
  refine unpackPayload_eq_some.mpr ⟨length_pack v, fun k hk => ?_⟩
  obtain ⟨hlo, hhi⟩ := hv ⟨k, hk⟩
  rw [getD_pack v hk (r := 1) (by decide), getD_pack v hk (r := 2) (by decide),
    show (pack v).getD (3 * k) 0 = _ from getD_pack v hk (r := 0) (by decide) 0]
  calc v[k] = sext24 (v[k].setWidth 24) := (sext24_setWidth hlo hhi).symm
    _ = sext24 (rawOf (v[k].extractLsb' 0 8) (v[k].extractLsb' 8 8) (v[k].extractLsb' 16 8)) := by rw [rawOf_extract]

theorem pack_of_unpackPayload {p : List Byte} {v : Vector Word 9} (hv : unpackPayload p = some v) : pack v = p := by
  obtain ⟨hp, hfields⟩ := unpackPayload_eq_some.mp hv
  refine List.ext_getElem ((length_pack v).trans hp.symm) fun n hn _ => ?_
  rw [length_pack] at hn
  obtain ⟨k, r, hk, hr, rfl⟩ : ∃ k r, k < 9 ∧ r < 3 ∧ n = 3 * k + r :=
    ⟨n / 3, n % 3, by omega, by omega, (Nat.div_add_mod n 3).symm⟩
  rw [← List.getD_eq_getElem _ 0, ← List.getD_eq_getElem _ 0, getD_pack v hk hr]
  simp only [hfields k hk, packField_sext24]
  interval_cases r <;> rfl

/-- Settles O24: the bytes of field `k` make its raw field, and a raw field has one word of 24 bits signed. -/
theorem packAndUnpackAreInverse : Obligations.PackAndUnpackAreInverse :=
  ⟨fun v hv => ⟨length_pack v, unpackPayload_pack hv⟩, fun _ _ _ => pack_of_unpackPayload⟩

end Sys2Proof.Machine
end

section
/-! PROOFS. The statements about the scaler (spec/43_scaling.md): what `SCALE 2` to `SCALE 8` write, the default `scale_fn` as
the nearest binary32, the range of the results, and the round trip. -/

namespace Sys2Proof.Machine

/-! ### `SCALE 2` to `SCALE 8` (R172 to R178) -/

/-- Settles O20: a scaling is the write of its field's value. -/
theorem scaleWritesItsValue : Obligations.ScaleWritesItsValue := by
  intro j s v hv
  rw [exec_scale, orFault_next_eq, scaleInto_eq_ok]
  exact ⟨v, hv, rfl⟩

/-! ### Rounding is to a nearest number of `p` bits -/

/-- A number with a significand of at most `p` bits, of either sign, with any exponent. -/
def IsFloat (p : Nat) (r : ℚ) : Prop := ∃ n k : ℤ, |n| < 2 ^ p ∧ r = n * (2 : ℚ) ^ k

theorem IsFloat.neg {p : Nat} {r : ℚ} (h : IsFloat p r) : IsFloat p (-r) := by
  obtain ⟨n, k, hn, rfl⟩ := h
  exact ⟨-n, k, by rwa [abs_neg], by push_cast; ring⟩

theorem IsFloat.div_zpow {p : Nat} {r : ℚ} (h : IsFloat p r) (e : ℤ) : IsFloat p (r / 2 ^ e) := by
  obtain ⟨n, k, hn, rfl⟩ := h
  exact ⟨n, k - e, hn, by rw [zpow_sub₀ two_ne_zero, mul_div_assoc]⟩

/-- Every finite binary32 has a significand of at most 24 bits (log 27). -/
theorem isFloat_of_f32Value {y : F32} {r : ℚ} (h : f32Value y = some r) : IsFloat 24 r := by
  have hf : (y.extractLsb' 0 23).toNat < 2 ^ 23 := (y.extractLsb' 0 23).isLt
  have signed : ∀ (b : Bool) (n : ℕ) (k : ℤ), n < 2 ^ 24 → IsFloat 24 ((if b then -1 else 1) * (n : ℚ) * 2 ^ k) := by
    intro b n k hn
    have hpos : IsFloat 24 ((n : ℚ) * 2 ^ k) :=
      ⟨n, k, by rw [abs_of_nonneg (Int.natCast_nonneg n)]; exact_mod_cast hn, by simp⟩
    cases b
    · simpa using hpos
    · simpa using hpos.neg
  unfold f32Value at h
  simp only at h
  split at h
  · cases h
  · split at h <;> cases h
    · exact signed _ _ _ (by omega)
    · exact signed _ _ _ (by omega)

/-- No whole number is nearer to `x / 2^e` than its rounding, and where another is as near, the rounding is even. -/
theorem Frac.atExp_nearest {x : Frac} (hd : 0 < x.den) (e n : ℤ) :
    |(x.atExp e : ℚ) - x.val / 2 ^ e| ≤ |(n : ℚ) - x.val / 2 ^ e| ∧
      (|(x.atExp e : ℚ) - x.val / 2 ^ e| = |(n : ℚ) - x.val / 2 ^ e| → (n : ℚ) ≠ x.atExp e → x.atExp e % 2 = 0) := by
  obtain ⟨near, tie⟩ := Frac.atExp_near hd e
  by_cases hn : n = (x.atExp e : ℤ)
  · subst hn
    simp
  · have apart : (1 : ℚ) ≤ |(n : ℚ) - x.atExp e| := by exact_mod_cast Int.one_le_abs (sub_ne_zero.mpr hn)
    have triangle := abs_sub_le (n : ℚ) (x.val / 2 ^ e) (x.atExp e)
    rw [abs_sub_comm (x.val / 2 ^ e)] at triangle
    exact ⟨by linarith, fun heq _ => tie (by linarith)⟩

/-- The same among the numbers of `p` bits. One with a fraction lies below the whole number `2^(p-1)`, which lies below
`x / 2^e`. -/
theorem Frac.atExp_nearest_float {x : Frac} {p : Nat} (hp : 1 ≤ p) (hn : 0 < x.num) (hd : 0 < x.den) {w : ℚ}
    (hw : IsFloat p w) :
    |(x.atExp (x.expFor p) : ℚ) - x.val / 2 ^ x.expFor p| ≤ |w - x.val / 2 ^ x.expFor p| ∧
      (|(x.atExp (x.expFor p) : ℚ) - x.val / 2 ^ x.expFor p| = |w - x.val / 2 ^ x.expFor p| →
        w ≠ x.atExp (x.expFor p) → x.atExp (x.expFor p) % 2 = 0) := by
  obtain ⟨n, k, hnp, rfl⟩ := hw
  rcases le_or_gt 0 k with hk | hk
  · obtain ⟨k, rfl⟩ := Int.eq_ofNat_of_zero_le hk
    have h := Frac.atExp_nearest hd (x.expFor p) (n * 2 ^ k)
    push_cast at h
    simpa using h
  · obtain ⟨lo, -⟩ := Frac.expFor_bounds (p := p) hn hd
    have hpow : (2 : ℚ) ^ ((p : ℤ) - 1) = ((2 ^ (p - 1) : ℤ) : ℚ) := by
      rw [show (p : ℤ) - 1 = ((p - 1 : ℕ) : ℤ) by omega]
      simp
    obtain ⟨near, -⟩ := Frac.atExp_nearest hd (x.expFor p) (2 ^ (p - 1))
    rw [← hpow, abs_sub_comm ((2 : ℚ) ^ ((p : ℤ) - 1)), abs_of_nonneg (sub_nonneg.mpr lo)] at near
    have below : (n : ℚ) * 2 ^ k < 2 ^ ((p : ℤ) - 1) := by
      have hnq : (n : ℚ) < 2 ^ (p : ℤ) := by
        rw [zpow_natCast]
        exact_mod_cast (le_abs_self n).trans_lt hnp
      calc (n : ℚ) * 2 ^ k < 2 ^ (p : ℤ) * 2 ^ k := by gcongr
        _ = 2 ^ ((p : ℤ) + k) := (zpow_add₀ two_ne_zero _ _).symm
        _ ≤ 2 ^ ((p : ℤ) - 1) := zpow_le_zpow_right₀ one_le_two (by omega)
    have far : x.val / 2 ^ x.expFor p - n * 2 ^ k ≤ |(n : ℚ) * 2 ^ k - x.val / 2 ^ x.expFor p| := by
      rw [abs_sub_comm]
      exact le_abs_self _
    exact ⟨by linarith, fun heq => by linarith⟩

theorem Frac.round_man_even {x : Frac} {p : Nat} (hp : 2 ≤ p) (h : x.atExp (x.expFor p) % 2 = 0) :
    (x.round p).man % 2 = 0 := by
  unfold Frac.round
  simp only
  split
  · obtain ⟨q, rfl⟩ := Nat.exists_eq_add_of_le' hp
    simp [Nat.pow_succ]
  · exact h

/-- No number of `p` bits is nearer to `x` than `x` rounded, and where another is as near, the significand is even. -/
theorem Frac.round_nearest {x : Frac} {p : Nat} (hp : 2 ≤ p) (hn : 0 < x.num) (hd : 0 < x.den) {r : ℚ}
    (hr : IsFloat p r) :
    |(x.round p).val - x.val| ≤ |r - x.val| ∧
      (|(x.round p).val - x.val| = |r - x.val| → r ≠ (x.round p).val → (x.round p).man % 2 = 0) := by
  have hp1 : 1 ≤ p := by omega
  obtain ⟨-, -, hval, -⟩ := Frac.round_spec hp1 hn hd
  obtain ⟨near, tie⟩ := Frac.atExp_nearest_float hp1 hn hd (hr.div_zpow (x.expFor p))
  have hpos : (0 : ℚ) < 2 ^ x.expFor p := by positivity
  have scale : ∀ a : ℚ, |a / 2 ^ x.expFor p - x.val / 2 ^ x.expFor p| = |a - x.val| / 2 ^ x.expFor p := fun a => by
    rw [← sub_div, abs_div, abs_of_pos hpos]
  have hm : (x.atExp (x.expFor p) : ℚ) = (x.round p).val / 2 ^ x.expFor p := by
    rw [hval, mul_div_cancel_right₀ _ hpos.ne']
  rw [hm, scale, scale] at near tie
  refine ⟨(div_le_div_iff_of_pos_right hpos).mp near, fun heq hne => Frac.round_man_even hp (tie (by rw [heq]) ?_)⟩
  exact fun h => hne ((div_left_inj' hpos.ne').mp h)

/-- The error of a rounding is less than one part in `2^p`: half a unit of the last place is at most that, and exactly that
only for a power of two, which is its own rounding. -/
theorem Frac.round_relative {x : Frac} {p : Nat} (hp : 2 ≤ p) (hn : 0 < x.num) (hd : 0 < x.den) :
    |(x.round p).val - x.val| < x.val / 2 ^ p := by
  have hp1 : 1 ≤ p := by omega
  obtain ⟨lo, -⟩ := Frac.expFor_bounds (p := p) hn hd
  obtain ⟨-, -, -, half⟩ := Frac.round_spec hp1 hn hd
  have hx : 0 < x.val := div_pos (by exact_mod_cast hn) (by exact_mod_cast hd)
  rw [le_div_iff₀ (by positivity)] at lo
  rcases lo.lt_or_eq with hlt | heq
  · have hpow : (2 : ℚ) ^ (p : ℤ) = 2 ^ ((p : ℤ) - 1) * 2 := by
      rw [← zpow_add_one₀ two_ne_zero, sub_add_cancel]
    rw [zpow_natCast] at hpow
    rw [lt_div_iff₀ (by positivity), hpow]
    have := mul_le_mul_of_nonneg_right half (by positivity : (0 : ℚ) ≤ 2 ^ ((p : ℤ) - 1) * 2)
    linarith
  · have hfloat : IsFloat p x.val := by
      refine ⟨2 ^ (p - 1), x.expFor p, ?_, ?_⟩
      · rw [abs_of_pos (by positivity)]
        exact pow_lt_pow_right₀ one_lt_two (by omega)
      · rw [← heq, show (p : ℤ) - 1 = ((p - 1 : ℕ) : ℤ) by omega]
        simp
    obtain ⟨near, -⟩ := Frac.round_nearest hp hn hd hfloat
    rw [sub_self, abs_zero] at near
    exact near.trans_lt (by positivity)

/-! ### Magnitudes (R180) -/

/-- `x` lies from `2^lo` to `2^hi`. -/
structure Frac.Within (lo hi : ℤ) (x : Frac) : Prop where
  den_pos : 0 < x.den
  lower : (2 : ℚ) ^ lo ≤ x.val
  upper : x.val ≤ (2 : ℚ) ^ hi

theorem Frac.Within.num_pos {lo hi : ℤ} {x : Frac} (h : x.Within lo hi) : 0 < x.num := by
  refine Nat.pos_of_ne_zero fun h0 => ?_
  have hlo := h.lower
  rw [Frac.val, h0, Nat.cast_zero, zero_div] at hlo
  exact absurd hlo (not_le.mpr (by positivity))

theorem Frac.val_div (x y : Frac) : (x.div y).val = x.val / y.val := by
  unfold Frac.val Frac.div
  push_cast
  exact (div_div_div_eq _ _ _ _).symm

theorem Scaled.val_frac (x : Scaled) : x.frac.val = x.val := by
  rw [Scaled.val, two_zpow_eq, Frac.val, Scaled.frac]
  push_cast
  rw [mul_div_assoc]

theorem Frac.Within.div {a b c d : ℤ} {x y : Frac} (hx : x.Within a b) (hy : y.Within c d) :
    (x.div y).Within (a - d) (b - c) where
  den_pos := Nat.mul_pos hx.den_pos hy.num_pos
  lower := by
    have hy0 : 0 < y.val := lt_of_lt_of_le (by positivity) hy.lower
    rw [Frac.val_div, zpow_sub₀ two_ne_zero]
    exact div_le_div₀ (le_trans (by positivity) hx.lower) hx.lower hy0 hy.upper
  upper := by
    rw [Frac.val_div, zpow_sub₀ two_ne_zero]
    exact div_le_div₀ (by positivity) hx.upper (by positivity) hy.lower

/-- A rounding moves a number by less than a factor of two. -/
theorem Frac.Within.round {lo hi : ℤ} {x : Frac} {p : Nat} (hp : 2 ≤ p) (h : x.Within lo hi) :
    (x.round p).frac.Within (lo - 1) (hi + 1) := by
  have hlo := h.lower
  have hhi := h.upper
  have hx : 0 < x.val := lt_of_lt_of_le (by positivity) hlo
  have hhalf : |(x.round p).val - x.val| < x.val / 2 :=
    (Frac.round_relative hp h.num_pos h.den_pos).trans_le
      (div_le_div_of_nonneg_left hx.le two_pos (le_self_pow₀ one_le_two (by omega)))
  obtain ⟨above, below⟩ := abs_lt.mp hhalf
  refine ⟨Nat.two_pow_pos _, ?_, ?_⟩
  · rw [Scaled.val_frac, zpow_sub_one₀ two_ne_zero]
    linarith
  · rw [Scaled.val_frac, zpow_add_one₀ two_ne_zero]
    linarith

/-- The exponent of a number rounded to 24 bits, from its magnitude. -/
theorem Frac.Within.round_exp {lo hi : ℤ} {x : Frac} (h : x.Within lo hi) :
    lo - 24 ≤ (x.round 24).exp ∧ (x.round 24).exp ≤ hi - 22 := by
  obtain ⟨hman, hman', -⟩ := Frac.round_spec (p := 24) (by decide) h.num_pos h.den_pos
  have hr := h.round (p := 24) (by decide)
  have hlo := hr.lower
  have hhi := hr.upper
  rw [Scaled.val_frac, Scaled.val] at hlo hhi
  have hman : (2 : ℚ) ^ (23 : ℤ) ≤ (x.round 24).man := by exact_mod_cast hman
  have hman' : ((x.round 24).man : ℚ) < (2 : ℚ) ^ (24 : ℤ) := by exact_mod_cast hman'
  have hlt : (2 : ℚ) ^ (lo - 1) < 2 ^ (24 + (x.round 24).exp) := by
    rw [zpow_add₀ two_ne_zero]
    exact hlo.trans_lt (by gcongr)
  have hle : (2 : ℚ) ^ (23 + (x.round 24).exp) ≤ 2 ^ (hi + 1) := by
    rw [zpow_add₀ two_ne_zero]
    exact le_trans (by gcongr) hhi
  have := (zpow_lt_zpow_iff_right₀ one_lt_two).mp hlt
  have := (zpow_le_zpow_iff_right₀ one_lt_two).mp hle
  omega

theorem rn32_eq_bits32 {lo hi : ℤ} {x : Frac} (neg : Bool) (h : x.Within lo hi) :
    rn32 neg x = (x.round 24).bits32 neg :=
  if_neg h.num_pos.ne'

/-! ### The fields of a pattern (log 27) -/

theorem Scaled.msb_bits32 (neg : Bool) (x : Scaled) : (x.bits32 neg).msb = neg := by
  refine BitVec.msb_append.trans ?_
  rw [if_neg (by decide), BitVec.msb_append, if_neg (by decide), BitVec.msb_ofBool]

theorem Scaled.exponent_bits32 (neg : Bool) (x : Scaled) :
    (x.bits32 neg).extractLsb' 23 8 = BitVec.ofNat 8 (x.exp + 150).toNat :=
  (BitVec.extractLsb'_append_eq_of_le (by decide)).trans BitVec.extractLsb'_append_eq_right

theorem Scaled.getLsbD_zero_bits32 (neg : Bool) {x : Scaled} (h : x.man % 2 = 0) :
    (x.bits32 neg).getLsbD 0 = false := by
  refine BitVec.getLsbD_append.trans ?_
  rw [if_pos (by decide), BitVec.getLsbD_ofNat, Nat.testBit_zero, h]
  rfl

/-! ### The quotient of a field by its divisor (R171) -/

theorem divisor_within (j : Fin 7) : (divisor j).Within 7 17 := by
  fin_cases j <;> constructor <;> norm_num [divisor, Frac.val]

/-- The divisor of a row of the table of R171. -/
theorem divisor_val {j : Fin 7} {num den : ℚ}
    (h : (j, num, den) ∈ [((0 : Fin 7), (1000 : ℚ), (1 : ℚ)), (1, 1287001287, 10000), (2, 200, 1), (3, 200, 1),
      (4, 1000, 1), (5, 1000, 1), (6, 1000, 1)]) : (divisor j).val = num / den := by
  simp only [List.mem_cons, List.not_mem_nil, or_false, Prod.mk.injEq] at h
  rcases h with ⟨rfl, rfl, rfl⟩ | ⟨rfl, rfl, rfl⟩ | ⟨rfl, rfl, rfl⟩ | ⟨rfl, rfl, rfl⟩ | ⟨rfl, rfl, rfl⟩ |
    ⟨rfl, rfl, rfl⟩ | ⟨rfl, rfl, rfl⟩ <;> simp [divisor, Frac.val]

/-- The magnitude of a field. -/
def magnitude (v : Word) : Frac := ⟨v.toInt.natAbs, 1⟩

/-- The magnitude of a field's exact value. -/
def exactQuotient (j : Fin 7) (v : Word) : Frac := (magnitude v).div (divisor j)

/-- The sign of a field as a factor. -/
def signOf (v : Word) : ℚ := if v.msb then -1 else 1

theorem abs_signOf_mul (v : Word) (a : ℚ) : |signOf v * a| = |a| := by
  unfold signOf
  split <;> simp

theorem signOf_mul_self (v : Word) : signOf v * signOf v = 1 := by
  unfold signOf
  split <;> norm_num

theorem signOf_mul_magnitude (v : Word) : signOf v * (magnitude v).val = v.toInt := by
  have hval : (magnitude v).val = |(v.toInt : ℚ)| := by simp [magnitude, Frac.val]
  rw [hval, signOf, BitVec.msb_eq_toInt]
  rcases lt_or_ge v.toInt 0 with h | h
  · rw [decide_eq_true h, if_pos rfl, abs_of_neg (by exact_mod_cast h), neg_one_mul, neg_neg]
  · rw [decide_eq_false (not_lt.mpr h), if_neg Bool.false_ne_true, abs_of_nonneg (by exact_mod_cast h), one_mul]

theorem signOf_mul_exactQuotient (j : Fin 7) (v : Word) :
    signOf v * (exactQuotient j v).val = v.toInt / (divisor j).val := by
  rw [exactQuotient, Frac.val_div, ← mul_div_assoc, signOf_mul_magnitude]

theorem IsFloat.signOf_mul {p : Nat} {r : ℚ} (h : IsFloat p r) (v : Word) : IsFloat p (signOf v * r) := by
  unfold signOf
  split
  · simpa using h.neg
  · simpa using h

section
variable {v : Word} (hv : v ≠ 0) (hlo : -8388608 ≤ v.toInt) (hhi : v.toInt ≤ 8388607)
include hv hlo hhi

theorem magnitude_within : (magnitude v).Within 0 23 := by
  have h0 : v.toInt ≠ 0 := fun h => hv (BitVec.eq_of_toInt_eq h)
  have hval : (magnitude v).val = (v.toInt.natAbs : ℚ) := by simp [magnitude, Frac.val]
  refine ⟨Nat.one_pos, ?_, ?_⟩ <;> rw [hval]
  · exact_mod_cast (by omega : 1 ≤ v.toInt.natAbs)
  · exact_mod_cast (by omega : v.toInt.natAbs ≤ 2 ^ 23)

theorem exactQuotient_within (j : Fin 7) : (exactQuotient j v).Within (-17) 16 :=
  (magnitude_within hv hlo hhi).div (divisor_within j)

theorem scaleExact_eq_bits32 (j : Fin 7) : scaleExact j v = ((exactQuotient j v).round 24).bits32 v.msb :=
  rn32_eq_bits32 v.msb (exactQuotient_within hv hlo hhi j)

/-- Readings (ii) and (iii) of R179 round a number of the quotient's size as well. -/
theorem scaleVia_eq_bits32 {p : Nat} (hp : 2 ≤ p) (j : Fin 7) :
    ∃ x : Frac, x.Within (-20) 19 ∧ scaleVia p j v = (x.round 24).bits32 v.msb := by
  have hw := (((magnitude_within hv hlo hhi).round hp).div ((divisor_within j).round hp)).round hp
  exact ⟨_, hw, (if_neg hv).trans (rn32_eq_bits32 v.msb hw)⟩

/-- The number that the default `scale_fn` gives. -/
theorem f32Value_scaleExact (j : Fin 7) :
    f32Value (scaleExact j v) = some (signOf v * ((exactQuotient j v).round 24).val) := by
  have hw := exactQuotient_within hv hlo hhi j
  obtain ⟨hman, hman', -⟩ := Frac.round_spec (p := 24) (by decide) hw.num_pos hw.den_pos
  obtain ⟨hexp, hexp'⟩ := hw.round_exp
  rw [scaleExact_eq_bits32 hv hlo hhi, f32Value_bits32 hman hman' (by omega) (by omega), signOf]

end

theorem toInt_zero_word : (((0 : Word).toInt : ℤ) : ℚ) = 0 :=
  Int.cast_zero

theorem scaleExact_zero (j : Fin 7) : scaleExact j 0 = 0 :=
  if_pos (Nat.zero_mul _)

theorem scaleVia_zero (p : Nat) (j : Fin 7) : scaleVia p j 0 = 0 :=
  if_pos rfl

theorem f32Value_zero : f32Value 0 = some 0 := by
  simp [f32Value]

/-! ### The statements about `scale_fn` (R179 to R181) -/

/-- Settles O21: every finite binary32 has 24 bits, and among those the rounding of the exact quotient is a nearest one;
the sign of the field is a factor of both sides. -/
theorem scaleExactIsTheNearestBinary32 : Obligations.ScaleExactIsTheNearestBinary32 := by
  intro j num den htable v hlo hhi
  change ∃ q, f32Value (scaleExact j v) = some q ∧ _
  rw [← div_div_eq_mul_div, ← divisor_val htable]
  by_cases hv : v = 0
  · subst hv
    refine ⟨0, by rw [scaleExact_zero, f32Value_zero], fun y r _ => ?_⟩
    rw [toInt_zero_word, zero_div, sub_self, abs_zero, sub_zero]
    exact ⟨abs_nonneg r, fun heq hne => absurd (abs_eq_zero.mp heq.symm) hne⟩
  · refine ⟨_, f32Value_scaleExact hv hlo hhi j, fun y r hr => ?_⟩
    have hw := exactQuotient_within hv hlo hhi j
    obtain ⟨near, tie⟩ :=
      Frac.round_nearest (by decide) hw.num_pos hw.den_pos ((isFloat_of_f32Value hr).signOf_mul v)
    have hr_eq : signOf v * (signOf v * r) = r := by rw [← mul_assoc, signOf_mul_self, one_mul]
    have herr : |signOf v * r - (exactQuotient j v).val| = |r - v.toInt / (divisor j).val| := by
      rw [← abs_signOf_mul v, mul_sub, hr_eq, signOf_mul_exactQuotient]
    rw [herr] at near tie
    rw [← signOf_mul_exactQuotient, ← mul_sub, abs_signOf_mul, signOf_mul_exactQuotient]
    refine ⟨near, fun heq hne => ?_⟩
    have heven := tie heq fun h => hne (by rw [← h, hr_eq])
    exact (congrArg (BitVec.getLsbD · 0) (scaleExact_eq_bits32 hv hlo hhi j)).trans
      (Scaled.getLsbD_zero_bits32 v.msb heven)

/-- Under every reading but the free one, 0 gives +0.0. -/
theorem scaleFn_zero {r : ScaleReading} (hr : r ≠ .unknown) (j : Fin 7) : scaleFn r j 0 = 0 := by
  cases r with
  | exact => exact scaleExact_zero j
  | binary64 => exact scaleVia_zero 53 j
  | binary32 => exact scaleVia_zero 24 j
  | unknown => exact absurd rfl hr

/-- Under every reading but the free one, a field other than 0 gives a rounded number well inside the normal range. -/
theorem scaleFn_eq_bits32 {r : ScaleReading} (hr : r ≠ .unknown) (j : Fin 7) {v : Word} (hv : v ≠ 0)
    (hlo : -8388608 ≤ v.toInt) (hhi : v.toInt ≤ 8388607) :
    ∃ x : Scaled, -44 ≤ x.exp ∧ x.exp ≤ -3 ∧ scaleFn r j v = x.bits32 v.msb := by
  have rounded : ∀ y : Frac, y.Within (-20) 19 → scaleFn r j v = (y.round 24).bits32 v.msb →
      ∃ x : Scaled, -44 ≤ x.exp ∧ x.exp ≤ -3 ∧ scaleFn r j v = x.bits32 v.msb := fun y hy heq =>
    ⟨_, hy.round_exp.1, hy.round_exp.2, heq⟩
  cases r with
  | exact =>
    obtain ⟨hexp, hexp'⟩ := (exactQuotient_within hv hlo hhi j).round_exp
    exact ⟨_, by omega, by omega, scaleExact_eq_bits32 hv hlo hhi j⟩
  | binary64 =>
    obtain ⟨y, hy, heq⟩ := scaleVia_eq_bits32 (p := 53) hv hlo hhi (by decide) j
    exact rounded y hy heq
  | binary32 =>
    obtain ⟨y, hy, heq⟩ := scaleVia_eq_bits32 (p := 24) hv hlo hhi (by decide) j
    exact rounded y hy heq
  | unknown => exact absurd rfl hr

/-- Settles O22: the exponent field is the exponent and the bias, far from 0 and from 255. -/
theorem scaleResultsAreNormalOrPlusZero : Obligations.ScaleResultsAreNormalOrPlusZero := by
  refine fun r j v hr hlo hhi => ⟨fun hv => hv ▸ scaleFn_zero hr j, fun hv => ?_⟩
  obtain ⟨x, hexp, hexp', heq⟩ := scaleFn_eq_bits32 hr j hv hlo hhi
  rw [heq, Scaled.exponent_bits32, BitVec.toNat_ofNat, Scaled.msb_bits32]
  exact ⟨by omega, by omega, rfl⟩

/-- Settles O23: the error of the rounding is less than one part in 2^24, and the field at most 2^23. -/
theorem scaleExactRoundTrips : Obligations.ScaleExactRoundTrips := by
  intro j num den htable v hlo hhi
  change ∃ q, f32Value (scaleExact j v) = some q ∧ _
  simp only [mul_div_assoc, ← divisor_val htable]
  by_cases hv : v = 0
  · subst hv
    exact ⟨0, by rw [scaleExact_zero, f32Value_zero], by norm_num [toInt_zero_word]⟩
  · refine ⟨_, f32Value_scaleExact hv hlo hhi j, ?_⟩
    have hw := exactQuotient_within hv hlo hhi j
    have hd : 0 < (divisor j).val := lt_of_lt_of_le (by positivity) (divisor_within j).lower
    have hq : (exactQuotient j v).val * (divisor j).val = (magnitude v).val := by
      rw [exactQuotient, Frac.val_div, div_mul_cancel₀ _ hd.ne']
    have hmag : (magnitude v).val ≤ 2 ^ (23 : ℤ) := (magnitude_within hv hlo hhi).upper
    calc |signOf v * ((exactQuotient j v).round 24).val * (divisor j).val - v.toInt|
        = |((exactQuotient j v).round 24).val - (exactQuotient j v).val| * (divisor j).val := by
          rw [← signOf_mul_magnitude, mul_assoc, ← mul_sub, abs_signOf_mul, ← hq, ← sub_mul, abs_mul, abs_of_pos hd]
      _ < (exactQuotient j v).val / 2 ^ 24 * (divisor j).val := by
          gcongr
          exact Frac.round_relative (by decide) hw.num_pos hw.den_pos
      _ = (magnitude v).val / 2 ^ 24 := by rw [div_mul_eq_mul_div, hq]
      _ ≤ 1 / 2 := by
          norm_num at hmag ⊢
          linarith

end Sys2Proof.Machine
end

section
/-! PROOFS. The statements about failures (spec/60_exceptions.md): the test of the residual, that a failure is final for its
invocation, and that the outputs hold no value after it. -/

namespace Sys2Proof.Machine

/-! ### How a failure is raised, and how long it stands (R194, R203) -/

/-- Settles O10: the two branches of the test. -/
theorem validateTestsTheResidual : Obligations.ValidateTestsTheResidual := by
  refine fun s sm hs hsm => ⟨fun h0 => ?_, fun hne => ?_⟩
  · rw [exec, execValidate_eq hs hsm, if_pos h0]
  · rw [exec, execValidate_eq hs hsm, if_neg hne]
    rfl

/-- Out of `Done` the table has no row but those of `START` and `RESET` (R119). -/
theorem Transition.start_or_reset_of_done {i : Instr} {s t : State} (h : Transition i s t) (hd : s.st = .done) :
    (∃ e, i = .start e) ∨ i = .reset := by
  cases h with
  | reset => exact .inr rfl
  | @start e => exact .inl ⟨e, rfl⟩
  | headerOk h0 | headerShort h0 | headerUnavailable h0 | lengthOk h0 | lengthBad h0 | lengthFailed h0 | payloadOk h0
  | payloadFailed h0 | residual h0 | summed h0 | otherHeader h0 | sameHeader h0 | success h0 =>
    rw [hd] at h0
    cases h0

/-- Settles O41: an operation that moves `status` is a row of the table, and the failure stands in `Done`. -/
theorem failureIsFinalForTheInvocation : Obligations.FailureIsFinalForTheInvocation := by
  intro i s t k hd hk h hne
  obtain ⟨-, hstatus⟩ | hrow := onlyTheTableMovesTheStage i s t h
  · exact absurd (hstatus.trans hk) hne
  · exact hrow.start_or_reset_of_done hd

/-! ### The outputs after a failure (R197) -/

theorem State.payValid_of_status_ne_ok {s : State} (h : s.status ≠ .ok) : s.payValid = false :=
  Bool.eq_false_iff.mpr fun hp => h (s.payValid_iff.mp hp).2

theorem State.fldValid_of_not_payValid {s : State} (h : s.payValid = false) : s.fldValid = false := by
  rw [State.fldValid, h, Bool.false_and]

theorem State.readOutLen_of_not_payValid {s : State} (h : s.payValid = false) :
    s.readOutLen = .error (.noValue .outLen) :=
  if_neg (Bool.eq_false_iff.mp h)

theorem State.readPayload_of_not_payValid {s : State} (h : s.payValid = false) :
    s.readPayload = .error (.noValue .payload) :=
  if_neg (Bool.eq_false_iff.mp h)

theorem State.readFld_of_not_fldValid {s : State} (h : s.fldValid = false) (j : Fin 7) :
    s.readFld j = .error (.noValue (.fld (j.val + 2))) :=
  if_neg (Bool.eq_false_iff.mp h)

theorem State.readVal_of_not_fldValid {s : State} (h : s.fldValid = false) (j : Fin 7) :
    s.readVal j = .error (.noValue (.val (j.val + 2))) :=
  if_neg (Bool.eq_false_iff.mp h)

/-- Settles O51: every output is read through one of the two flags, and both need the status `OK`. -/
theorem outputsHoldNoValueAfterAFailure : Obligations.OutputsHoldNoValueAfterAFailure := by
  intro s h
  have hpay : s.payValid = false := State.payValid_of_status_ne_ok h
  have hfld : s.fldValid = false := State.fldValid_of_not_payValid hpay
  exact ⟨hpay, hfld, State.readOutLen_of_not_payValid hpay, State.readPayload_of_not_payValid hpay, fun j =>
    ⟨State.readFld_of_not_fldValid hfld j, State.readVal_of_not_fldValid hfld j⟩⟩

end Sys2Proof.Machine
end

section
/-! PROOFS. The statements about reset and hazards (spec/70_reset_and_hazards.md): what `RESET` clears and what it leaves,
`START` while busy, and the reads that are refused. -/

namespace Sys2Proof.Machine

section
variable {s : State} {n : Nat} {e : Byte} {rest : List Event}

/-! ### What `RESET` does to the request channels and the wire (R230, R231) -/

/-- Without an unanswered request nothing is abandoned: the channels are emptied and the Transport stands. -/
theorem State.abandon_of_answered (h : s.req = none ∨ s.rsp ≠ none) : s.abandon = s.answered := by
  unfold State.abandon
  split
  · rename_i hq hr
    rcases h with h | h
    · rw [hq] at h
      cases h
    · exact absurd hr h
  · rfl

/-- An unanswered request of `n` bytes is counted as abandoned, and takes a number of bytes from 0 to `n`: those on the wire
first, the others when they arrive (log 8). -/
theorem State.abandon_of_unanswered (hq : s.req = some n) (hr : s.rsp = none) : ∃ k ≤ n, s.abandon =
    { s.answered with
      abandoned := s.abandoned + 1, tick := s.tick + 1
      wire := s.wire.drop k, debt := s.debt + (k - s.wire.length) } := by
  refine ⟨Config.abandonedTakes s.tick % (n + 1), Nat.le_of_lt_succ (Nat.mod_lt _ n.succ_pos), ?_⟩
  unfold State.abandon
  rw [hq, hr]
  rfl

/-- The answer to the request that `RESET` abandoned changes nothing but the count of such answers. -/
theorem step_lateAnswer_of_reset (a : Answer) (rest : List Event) (hq : s.req ≠ none) (hr : s.rsp = none) :
    step { s.abandon.resetBlock with schedule := .lateAnswer a :: rest } =
      .next { s.abandon.resetBlock with abandoned := s.abandoned, schedule := rest } := by
  obtain ⟨n, hn⟩ := Option.ne_none_iff_exists'.mp hq
  obtain ⟨k, -, hk⟩ := State.abandon_of_unanswered hn hr
  have hcount : s.abandon.abandoned = s.abandoned + 1 := by rw [hk]
  exact step_lateAnswer (State.unshared_of_rest rfl) rfl hcount

/-! ### A command and a caller's read while busy (R240, R241) -/

theorem exec_start_busy (hb : s.busy = true) : exec (.start e) s = .next s :=
  if_pos hb

theorem step_start_busy (hb : s.busy = true) (hi : s.unshared = false) (h : s.schedule = .cmd (startWord e) :: rest) :
    step s = .next { s with schedule := rest } :=
  (step_cmd h hi (decodeCommand_startWord e)).trans (exec_start_busy (s := { s with schedule := rest }) hb)

theorem exec_tRead_zero (s : State) : exec (.tRead 0) s = .refused .zeroRead := by
  rw [exec, execTRead, if_pos rfl]

theorem exec_tRead_second (h0 : n ≠ 0) (hb : s.busy = true) (h : s.req ≠ some n ∨ s.rsp ≠ none) :
    exec (.tRead n) s = .refused .secondReader := by
  rw [exec, execTRead, if_neg h0, if_pos hb, if_neg (not_and_or.mpr h)]

theorem step_tRead_busy (hb : s.busy = true) (hi : s.unshared = false) (h : s.schedule = .tRead n :: rest) :
    step s = .refused .secondReader := by
  rw [step_event hi h]
  exact congrArg Fetched.outcome (if_pos hb)

end

/-! ### The statements -/

/-- Settles O2: the registers by what `resetBlock` sets, the channels and the late answer by what `abandon` does. -/
theorem resetEventClearsEveryState : Obligations.ResetEventClearsEveryState := fun s =>
  ⟨s.abandon.resetBlock, rfl, rfl, rfl, rfl, rfl, rfl, rfl, rfl, rfl, fun _ => rfl,
    fun k => Vector.getElem_replicate k.isLt, fun j => Vector.getElem_replicate j.isLt, s.abandon_req, s.abandon_rsp,
    fun hq hr a rest => step_lateAnswer_of_reset a rest hq hr⟩

/-- Settles O3: only the abandoned read moves anything of the Transport. -/
theorem resetEventLeavesTheTransport : Obligations.ResetEventLeavesTheTransport := by
  refine fun s => ⟨s.abandon.resetBlock, rfl, s.abandon_cfg, s.abandon_handle, s.abandon_vmin, s.abandon_sent,
    s.abandon_tret, s.abandon_sextOut, s.abandon_schedule, fun h => ?_, fun n hq hr => ?_⟩
  · rw [State.abandon_of_answered h]
    exact ⟨rfl, rfl, rfl, rfl⟩
  · obtain ⟨k, hk, he⟩ := State.abandon_of_unanswered hq hr
    rw [he]
    exact ⟨k, hk, rfl, rfl, rfl⟩

/-- Settles O5: the command word decodes to `START`, which the busy block ignores. -/
theorem startWhileBusyChangesNothing : Obligations.StartWhileBusyChangesNothing :=
  fun _ _ hb => ⟨exec_start_busy hb, fun _ hi h => step_start_busy hb hi h⟩

/-- Settles O28: the second reader by the operation and by the step, the empty read before either. -/
theorem secondReaderAndZeroReadAreRefused : Obligations.SecondReaderAndZeroReadAreRefused :=
  ⟨fun _ _ => exec_tRead_second, fun _ _ _ => step_tRead_busy, exec_tRead_zero⟩

end Sys2Proof.Machine
end
